-- ==== Sys2Proof/Word.lean ====
section
/-! DEFINITION. The byte, the 32-bit word and the byte string (spec/00_scope.md R8 to R12). -/

namespace Sys2Proof

/-- A byte: BUF holds bytes (spec/20_memory.md R62). -/
abbrev Byte := BitVec 8

/-- A 32-bit word: the width of every register and of the hash word (spec/00_scope.md R8). -/
abbrev Word := BitVec 32

/-- A byte string; byte 0 comes first (spec/00_scope.md R10). -/
abbrev Bytes := List Byte

end Sys2Proof
end

