-- ==== Sys2Proof/Syntax.lean ====
section
/-! DEFINITION. The commands: one constructor per row of spec/opcode_table.json
(spec/30_encoding.md R94). A command names no register and holds no immediate (R91, R97); its only
operands in the word are the S bit of the single-block commands and the Z bit of the chained ones
(R92). -/

namespace Sys2Proof

/-- A legal command. Every value of this type is well-formed: the type admits an S bit only where
spec/30_encoding.md R93 admits one, and likewise a Z bit. -/
inductive Instr where
  /-- NOP, OP 0x00. -/
  | nop
  /-- HASH_RESET, OP 0x01. -/
  | hashReset
  /-- HASH_UPDATE, OP 0x02. -/
  | hashUpdate
  /-- HASH_FINAL, OP 0x03. -/
  | hashFinal
  /-- HASH_EXPAND, OP 0x04. -/
  | hashExpand
  /-- AES_KEYSCHED, OP 0x10. -/
  | aesKeysched
  /-- AES_ENC_BLOCK, OP 0x11; `seeded` is the S bit. -/
  | aesEncBlock (seeded : Bool)
  /-- AES_DEC_BLOCK, OP 0x12; `seeded` is the S bit. -/
  | aesDecBlock (seeded : Bool)
  /-- AES_CHAIN_ENC, OP 0x13; `zeroIv` is the Z bit. -/
  | aesChainEnc (zeroIv : Bool)
  /-- AES_CHAIN_DEC, OP 0x14; `zeroIv` is the Z bit. -/
  | aesChainDec (zeroIv : Bool)
  /-- AES_MAC, OP 0x15. -/
  | aesMac
  /-- RSA_PRIV, OP 0x20. -/
  | rsaPriv
  /-- RSA_PUB, OP 0x21. -/
  | rsaPub
  /-- KM_LOAD, OP 0x30. -/
  | kmLoad
  /-- HS_START, OP 0x40. -/
  | hsStart
  /-- HS_CERT, OP 0x41. -/
  | hsCert
  /-- HS_RESPONSE, OP 0x42. -/
  | hsResponse
  /-- HS_CONFIRM, OP 0x43. -/
  | hsConfirm
  /-- HS_OPEN, OP 0x44. -/
  | hsOpen
  /-- HS_ABORT, OP 0x45. -/
  | hsAbort
deriving DecidableEq, Repr

end Sys2Proof
end

