-- ==== Sys2Proof/WellFormed.lean ====
section
/-! DEFINITION. The four checks a command word must pass (spec/30_encoding.md R93), over the fields
of the one format (R90). They are written apart from the decoder, so that their agreement with it is
a statement and not a definition. A term of `Instr` needs no check of its own (see `Instr`). -/

namespace Sys2Proof

/-- The fields of a command word (spec/30_encoding.md R90). -/
structure CommandFields where
  /-- Bits 31:10. -/
  reserved : BitVec 22
  /-- Bit 9. -/
  z : Bool
  /-- Bit 8. -/
  s : Bool
  /-- Bits 7:0. -/
  op : BitVec 8
deriving DecidableEq, Repr

/-- The fields of a word (spec/30_encoding.md R90). -/
def CommandFields.ofWord (w : Word) : CommandFields :=
  { reserved := w.extractLsb' 10 22, z := w.getLsbD 9, s := w.getLsbD 8, op := w.extractLsb' 0 8 }

namespace CommandFields

/-- OP is an assigned opcode (spec/30_encoding.md R94). -/
def opAssigned (f : CommandFields) : Bool :=
  let n := f.op.toNat
  n ≤ 0x04 || (0x10 ≤ n && n ≤ 0x15) || n == 0x20 || n == 0x21 || n == 0x30 ||
    (0x40 ≤ n && n ≤ 0x45)

/-- Bits 31:10 are 0 (spec/30_encoding.md R90, R93). -/
def reservedZero (f : CommandFields) : Bool := f.reserved == 0

/-- S is set only on AES_ENC_BLOCK and AES_DEC_BLOCK (spec/30_encoding.md R93). -/
def seedAllowed (f : CommandFields) : Bool := !f.s || f.op == 0x11 || f.op == 0x12

/-- Z is set only on AES_CHAIN_ENC and AES_CHAIN_DEC (spec/30_encoding.md R93). -/
def zeroAllowed (f : CommandFields) : Bool := !f.z || f.op == 0x13 || f.op == 0x14

/-- A legal command word: all four checks of spec/30_encoding.md R93. -/
def wellFormed (f : CommandFields) : Bool :=
  f.opAssigned && f.reservedZero && f.seedAllowed && f.zeroAllowed

end CommandFields
end Sys2Proof
end

