-- ==== Sys2Proof/Decode.lean ====
section
/-! DEFINITION. Decoding a command word and encoding a command (spec/30_encoding.md R90 to R96). -/

namespace Sys2Proof

/-- Why a word is illegal (spec/30_encoding.md R93). The machine answers each with the error
ILLEGAL_CMD; none stops it. -/
inductive DecodeError where
  /-- OP is not assigned (R94). -/
  | unassignedOp
  /-- S = 1 on a command that has no seed. -/
  | seedBit
  /-- Z = 1 on a command that has no initial feedback. -/
  | zeroBit
  /-- One of bits 31:10 is 1. -/
  | reservedBits
deriving DecidableEq, Repr

/-- A command without S and Z: the two bits must be 0 (spec/30_encoding.md R93). -/
def decodePlain (s z : Bool) (i : Instr) : Except DecodeError Instr :=
  if s then .error .seedBit else if z then .error .zeroBit else .ok i

/-- A command with an S bit (spec/30_encoding.md R92): Z must be 0. -/
def decodeSeeded (s z : Bool) (i : Bool → Instr) : Except DecodeError Instr :=
  if z then .error .zeroBit else .ok (i s)

/-- A command with a Z bit (spec/30_encoding.md R92): S must be 0. -/
def decodeChained (s z : Bool) (i : Bool → Instr) : Except DecodeError Instr :=
  if s then .error .seedBit else .ok (i z)

/-- The opcode table (spec/30_encoding.md R94). -/
def decodeOp (op : Nat) (s z : Bool) : Except DecodeError Instr :=
  match op with
  | 0x00 => decodePlain s z .nop
  | 0x01 => decodePlain s z .hashReset
  | 0x02 => decodePlain s z .hashUpdate
  | 0x03 => decodePlain s z .hashFinal
  | 0x04 => decodePlain s z .hashExpand
  | 0x10 => decodePlain s z .aesKeysched
  | 0x11 => decodeSeeded s z .aesEncBlock
  | 0x12 => decodeSeeded s z .aesDecBlock
  | 0x13 => decodeChained s z .aesChainEnc
  | 0x14 => decodeChained s z .aesChainDec
  | 0x15 => decodePlain s z .aesMac
  | 0x20 => decodePlain s z .rsaPriv
  | 0x21 => decodePlain s z .rsaPub
  | 0x30 => decodePlain s z .kmLoad
  | 0x40 => decodePlain s z .hsStart
  | 0x41 => decodePlain s z .hsCert
  | 0x42 => decodePlain s z .hsResponse
  | 0x43 => decodePlain s z .hsConfirm
  | 0x44 => decodePlain s z .hsOpen
  | 0x45 => decodePlain s z .hsAbort
  | _ => .error .unassignedOp

/-- Decoding is total (spec/30_encoding.md R95): OP is looked up, then S and Z are checked against
it, then bits 31:10. -/
def decode (w : Word) : Except DecodeError Instr :=
  match decodeOp (w.toNat % 256) (w.getLsbD 8) (w.getLsbD 9) with
  | .error e => .error e
  | .ok i => if w >>> 10 = 0 then .ok i else .error .reservedBits

/-- OP of a command (spec/30_encoding.md R94). -/
def Instr.opcode : Instr → BitVec 8
  | .nop => 0x00
  | .hashReset => 0x01
  | .hashUpdate => 0x02
  | .hashFinal => 0x03
  | .hashExpand => 0x04
  | .aesKeysched => 0x10
  | .aesEncBlock _ => 0x11
  | .aesDecBlock _ => 0x12
  | .aesChainEnc _ => 0x13
  | .aesChainDec _ => 0x14
  | .aesMac => 0x15
  | .rsaPriv => 0x20
  | .rsaPub => 0x21
  | .kmLoad => 0x30
  | .hsStart => 0x40
  | .hsCert => 0x41
  | .hsResponse => 0x42
  | .hsConfirm => 0x43
  | .hsOpen => 0x44
  | .hsAbort => 0x45

/-- The S bit of a command (spec/30_encoding.md R92). -/
def Instr.seedBit : Instr → Bool
  | .nop => false
  | .hashReset => false
  | .hashUpdate => false
  | .hashFinal => false
  | .hashExpand => false
  | .aesKeysched => false
  | .aesEncBlock b => b
  | .aesDecBlock b => b
  | .aesChainEnc _ => false
  | .aesChainDec _ => false
  | .aesMac => false
  | .rsaPriv => false
  | .rsaPub => false
  | .kmLoad => false
  | .hsStart => false
  | .hsCert => false
  | .hsResponse => false
  | .hsConfirm => false
  | .hsOpen => false
  | .hsAbort => false

/-- The Z bit of a command (spec/30_encoding.md R92). -/
def Instr.zeroBit : Instr → Bool
  | .nop => false
  | .hashReset => false
  | .hashUpdate => false
  | .hashFinal => false
  | .hashExpand => false
  | .aesKeysched => false
  | .aesEncBlock _ => false
  | .aesDecBlock _ => false
  | .aesChainEnc b => b
  | .aesChainDec b => b
  | .aesMac => false
  | .rsaPriv => false
  | .rsaPub => false
  | .kmLoad => false
  | .hsStart => false
  | .hsCert => false
  | .hsResponse => false
  | .hsConfirm => false
  | .hsOpen => false
  | .hsAbort => false

/-- The command word `OP | (s << 8) | (z << 9)` (spec/30_encoding.md R90, R98). -/
def encode (i : Instr) : Word :=
  (0 : BitVec 22) ++ BitVec.ofBool i.zeroBit ++ BitVec.ofBool i.seedBit ++ i.opcode

/-- What the decoder reads from a word given as a number (spec/opcode_table.json numbers its bits
so). A command is one 32-bit word (spec/30_encoding.md R90); bits at or above `nbits` are 0. -/
def decodeTableWord (nbits w : Nat) : Option Instr :=
  match decode (BitVec.ofNat 32 (w % 2 ^ nbits)) with
  | .ok i => some i
  | .error _ => none

end Sys2Proof
end

