-- ==== Sys2Proof/Machine/Bytes.lean ====
section
/-! DEFINITION. Byte strings, conversions between integers and bytes, and word arithmetic
(spec/00_scope.md R10 to R12). -/

namespace Sys2Proof.Machine

/-- `zeros(n)` (spec/00_scope.md R10). -/
def zeros (n : Nat) : Bytes := List.replicate n 0

/-- `xor(s, t)` for two strings of equal length (spec/00_scope.md R10). -/
def xorBytes (s t : Bytes) : Bytes := List.zipWith (· ^^^ ·) s t

/-- `s[a:b)` (spec/00_scope.md R10). -/
def slice (s : Bytes) (a b : Nat) : Bytes := (s.drop a).take (b - a)

/-- Byte i of a string (spec/00_scope.md R10); every use is within the string's length. -/
def byteAt (s : Bytes) (i : Nat) : Byte := s.getD i 0

/-- The string with the bytes from offset `a` on replaced by `t`: `s[a : a+len(t)) <- t`. -/
def spliceAt (s : Bytes) (a : Nat) (t : Bytes) : Bytes := s.take a ++ t ++ s.drop (a + t.length)

/-- `BEint(s)` (spec/00_scope.md R11). -/
def beInt (s : Bytes) : Nat := s.foldl (fun v b => v * 256 + b.toNat) 0

/-- `BEbytes(v, n)` (spec/00_scope.md R11), for `minlen(v) <= n`; the bytes above are dropped
otherwise. -/
def beBytes (v : Nat) : Nat → Bytes
  | 0 => []
  | n + 1 => BitVec.ofNat 8 (v / 256 ^ n) :: beBytes v n

/-- `minlen(v)`: the bytes of the shortest big-endian encoding (spec/00_scope.md R11). -/
def minlen (v : Nat) : Nat := if v = 0 then 0 else v.log2 / 8 + 1

/-- `BE32(v)` (spec/00_scope.md R11). -/
def be32 (v : Word) : Bytes := beBytes v.toNat 4

/-- `BE64(v)` (spec/00_scope.md R11). -/
def be64 (v : BitVec 64) : Bytes := beBytes v.toNat 8

/-- The value of a host load: the sum of `s[j] * 256^j` (spec/20_memory.md R64). -/
def leInt : Bytes → Nat
  | [] => 0
  | b :: bs => b.toNat + 256 * leInt bs

/-- The bytes of a host store, least significant first (spec/20_memory.md R64). -/
def leBytes (v : Nat) : Nat → Bytes
  | 0 => []
  | n + 1 => BitVec.ofNat 8 v :: leBytes (v / 256) n

/-- `rotl32(x, n)` for 0 < n < 32 (spec/00_scope.md R12). -/
def rotl32 (x : Word) (n : Nat) : Word := (x <<< n) ||| (x >>> (32 - n))

/-- `Ch` (spec/00_scope.md R12). -/
def ch (x y z : Word) : Word := (x &&& y) ||| (~~~x &&& z)

/-- `Parity` (spec/00_scope.md R12). -/
def parity (x y z : Word) : Word := x ^^^ y ^^^ z

/-- `Maj` (spec/00_scope.md R12). -/
def maj (x y z : Word) : Word := (x &&& y) ||| (x &&& z) ||| (y &&& z)

end Sys2Proof.Machine
end

