-- ==== Sys2Proof/Config.lean ====
section
/-! DEFINITION. What an implementation fixes: the parameters of spec/00_scope.md R8, the OPEN ones
and the draws as opaque constants of which nothing can be proved. -/

namespace Sys2Proof

/-- The OPEN parameters of spec/00_scope.md R8, with the ranges spec/43_handshake.md R223 and
spec/00_scope.md R8 give them. -/
structure Params where
  /-- `P_SIG_WRAP_OFFSET`, 0 to 8. -/
  sigWrapOffset : Fin 9
  /-- `P_SIG_MARKER`. -/
  sigMarker : Byte
  /-- `P_SIG_TRAILER`. -/
  sigTrailer : Byte
  /-- `P_HS_IV`, 16 bytes. -/
  hsIv : Vector Byte 16
  /-- `P_MACCOUNT_OFFSET`, 0 to 16. -/
  macCountOffset : Fin 17
  /-- `P_BASE / 4`. -/
  baseWord : Nat
deriving DecidableEq, Repr, Inhabited

/-- `P_BASE`, the host address of the window (spec/20_memory.md R61). DEDUCED (log 5): a multiple of 4,
since otherwise no register could be reached by the naturally aligned accesses spec/20_memory.md R66
requires. -/
def Params.base (p : Params) : Nat := 4 * p.baseWord

namespace Config

/-- The OPEN parameters of this implementation. DESIGN CHOICE (log 4): no value is fixed. A state
carries its parameters, so that a claim or a test can name others (spec/70_reset_and_hazards.md R335
lists them among the premises about the state); the state after reset carries these. -/
opaque params : Params

/-- The bytes of the random source and of the other draws (spec/00_scope.md R13 `draw_rng`,
spec/20_memory.md R71): byte number `k` of the stream, under no law, where the state does not list the
draw itself. DESIGN CHOICE (log 3). -/
opaque draw : Nat → Byte

/-- `P_BUF_SIZE` (spec/00_scope.md R8). -/
abbrev bufSize : Nat := 4096

/-- `P_RSA_BYTES` (spec/00_scope.md R8). -/
abbrev rsaBytes : Nat := 128

/-- `P_CERT_BYTES` = 0x275 (spec/00_scope.md R8). -/
abbrev certBytes : Nat := 0x275

/-- The identification constant (spec/10_state.md R22). -/
def idConstant : Word := 0x4D54505A

/-- The size of the host window (spec/20_memory.md R60). -/
abbrev windowSize : Nat := 0x2000

/-- The window offset of BUF byte 0 (spec/20_memory.md R61). -/
abbrev bufWindow : Nat := 0x1000

end Config
end Sys2Proof
end

