-- ==== Sys2Proof/Machine/State.lean ====
section
/-! DEFINITION. The state of MTPZ-CE (spec/10_state.md R20 to R35), its reset (R42), and the reasons
a step can stop. INVENTORY.md lists every field with its rule and its reset value. -/

namespace Sys2Proof.Machine

/-- The error codes of spec/60_exceptions.md R281, by name. -/
inductive ErrCode where
  /-- 0: no error. -/
  | ok
  /-- 1: the command word is illegal. -/
  | illegalCmd
  /-- 2: an operand range or a length argument is outside its legal set. -/
  | badArg
  /-- 3: no cipher schedule. -/
  | noSched
  /-- 4: no key material. -/
  | noKeymat
  /-- 5: KM_LOAD while key material is loaded. -/
  | kmLocked
  /-- 6: malformed key material. -/
  | kmInvalid
  /-- 7: an RSA result is too long. -/
  | crypto
  /-- 8: a handshake command out of order. -/
  | sequence
  /-- 9: the latched transport status is not 0. -/
  | transport
  /-- 10: the device response is malformed. -/
  | framing
  /-- 11: the echoed nonce differs. -/
  | auth
  /-- 12: the Host voided the attempt. -/
  | aborted
deriving DecidableEq, Repr

/-- The orchestrator's states (spec/43_handshake.md R210). -/
inductive HsState where
  /-- 0. -/
  | idle
  /-- 1. -/
  | reset
  /-- 2. -/
  | certSent
  /-- 3. -/
  | responseValidated
  /-- 4. -/
  | confirmed
  /-- 5. -/
  | sessionOpen
  /-- 6. -/
  | failed
deriving DecidableEq, Repr

/-- Five argument registers: ARG0 to ARG4 (spec/10_state.md R26) and their latched copies LARG[0..4]
(R35). -/
structure Args where
  /-- ARG0. -/
  arg0 : Word
  /-- ARG1. -/
  arg1 : Word
  /-- ARG2. -/
  arg2 : Word
  /-- ARG3. -/
  arg3 : Word
  /-- ARG4. -/
  arg4 : Word
deriving DecidableEq, Repr

/-- HS_W0 to HS_W3 (spec/10_state.md R30). -/
structure EnableWords where
  /-- HS_W0. -/
  w0 : Word
  /-- HS_W1. -/
  w1 : Word
  /-- HS_W2. -/
  w2 : Word
  /-- HS_W3. -/
  w3 : Word
deriving DecidableEq, Repr

/-- The five accumulator words `H[0..4]` (spec/10_state.md R32). -/
structure HashWords where
  /-- `H[0]`. -/
  h0 : Word
  /-- `H[1]`. -/
  h1 : Word
  /-- `H[2]`. -/
  h2 : Word
  /-- `H[3]`. -/
  h3 : Word
  /-- `H[4]`. -/
  h4 : Word
deriving DecidableEq, Repr

/-- A hash instance (spec/10_state.md R32). -/
structure HashState where
  /-- `H[0..4]`. -/
  h : HashWords
  /-- `BLK[0..63]`. -/
  blk : Bytes
  /-- `CNT`, the message length in bits. -/
  cnt : BitVec 64
deriving DecidableEq, Repr

/-- The round keys of a schedule: what `mksched` returns (spec/41_cipher.md R150). -/
structure RoundKeys where
  /-- `NR`. -/
  nr : Nat
  /-- `EK[0..NR]`, 16 bytes each. -/
  ek : List Bytes
  /-- `DK[0..NR]`, 16 bytes each. -/
  dk : List Bytes
deriving DecidableEq, Repr

/-- SCHED (spec/10_state.md R31). -/
structure Sched where
  /-- `SCHED.VALID`. -/
  valid : Bool
  /-- `SCHED.NR`, `SCHED.EK` and `SCHED.DK`. -/
  keys : RoundKeys
deriving DecidableEq, Repr

/-- KM (spec/10_state.md R33). The three RSA numbers are integers, as the rule says. -/
structure KeyMaterial where
  /-- `KM.VALID`. -/
  valid : Bool
  /-- `KM.ENCKEY`, 16 bytes; no command reads it (spec/44_keymaterial.md R263). -/
  encKey : Bytes
  /-- `KM.E`. -/
  e : Nat
  /-- `KM.N`. -/
  n : Nat
  /-- `KM.D`. -/
  d : Nat
  /-- `KM.CERT`. -/
  cert : Bytes
  /-- `KM.CERTLEN`. -/
  certLen : Nat
deriving DecidableEq, Repr

/-- SESSION (spec/10_state.md R34). -/
structure Session where
  /-- `SESSION.NONCE`, 16 bytes. -/
  nonce : Bytes
  /-- `SESSION.SKEY`, 16 bytes. -/
  skey : Bytes
  /-- `SESSION.MACHASH`, 20 bytes. -/
  macHash : Bytes
  /-- `SESSION.MACCOUNT`. -/
  macCount : Word
deriving DecidableEq, Repr

/-- BUF (spec/20_memory.md R62): (offset, byte) pairs, offsets strictly rising and below 4096. A byte
that nothing has written holds no value (R72) and is not listed. -/
abbrev Memory := List Host.Cell

/-- What a host access names: an offset from P_BASE (spec/10_state.md R21) or a host address. -/
inductive HostAddr where
  /-- `P_BASE + off`. -/
  | window (off : Nat)
  /-- Host address `a`. -/
  | absolute (a : Nat)
deriving DecidableEq, Repr

/-- One access of the Host (spec/20_memory.md R64, R66) or one poll of a script statement
(spec/30_encoding.md R99). `width` is in bytes. -/
inductive HostOp where
  /-- A host load. -/
  | load (width : Nat) (addr : HostAddr)
  /-- A host store of the low `width` bytes of `value`. -/
  | store (width : Nat) (addr : HostAddr) (value : Word)
  /-- `wait`: load STATUS until BUSY reads 0. -/
  | wait
  /-- `check`: load STATUS and require ERR = DROP = 0. -/
  | check
deriving DecidableEq, Repr

/-- Who takes a step (spec/10_state.md R40). -/
inductive Agent where
  /-- The Host. -/
  | host
  /-- The Engine. -/
  | engine
deriving DecidableEq, Repr

/-- The state of MTPZ-CE. STATUS and HS_STATUS are views of it (Machine/Flags.lean). -/
structure State where
  /-- STATUS.BUSY (spec/10_state.md R24). -/
  busy : Bool
  /-- STATUS.ERR (R24). -/
  err : Bool
  /-- STATUS.DROP (R24). -/
  drop : Bool
  /-- STATUS.ERRCODE (R24). -/
  errCode : ErrCode
  /-- ARG0 to ARG4 (R26). -/
  args : Args
  /-- RESULT (R27). -/
  result : Word
  /-- TSTATUS (R28). -/
  tstatus : Word
  /-- HS_W0 to HS_W3 (R30). -/
  enable : EnableWords
  /-- BUF (spec/20_memory.md R62). -/
  buf : Memory
  /-- HASH (R32). -/
  hash : HashState
  /-- SCHED (R31). -/
  sched : Sched
  /-- KM (R33). -/
  km : KeyMaterial
  /-- HS_STATE (R34). -/
  hsState : HsState
  /-- HS_FAIL (R34). -/
  hsFail : ErrCode
  /-- SESSION (R34). -/
  session : Session
  /-- CUR_CMD (R35). -/
  curCmd : Word
  /-- LARG[0..4] (R35). -/
  larg : Args
  /-- LTSTATUS (R35). -/
  ltstatus : Word
  /-- The MODEL's own: the parameters of this MTPZ-CE (log 4). No step changes them. -/
  params : Params
  /-- The MODEL's own: how many bytes have been drawn (log 3). -/
  draws : Nat
  /-- The MODEL's own: the next draws, where the state lists them (log 3). -/
  randomInput : Bytes
  /-- The MODEL's own: the host accesses still to be made (log 1). -/
  script : List HostOp
  /-- The MODEL's own: who moves next while BUSY = 1 (log 2). -/
  turns : List Agent
  /-- The MODEL's own: what the last host load returned (log 11). -/
  hostRead : Word
  /-- The MODEL's own: a `check` of the script has failed (log 10). -/
  scriptFailed : Bool
deriving DecidableEq, Repr

/-- Why the machine stops: the host faults of spec/60_exceptions.md R290. A faulted run has no final
state (spec/70_reset_and_hazards.md R333). -/
inductive Fault where
  /-- F_WIDTH: a register-space access that is not a naturally aligned 32-bit access. Raised by a host
  load or store. Safe: the spec gives a bus error that changes no state. -/
  | width
  /-- F_BUFACC: a BUF access that is misaligned or not 8, 16 or 32 bits wide. Raised by a host load or
  store. Safe: the spec gives a bus error that changes no state. -/
  | bufAcc
  /-- F_BUSYSTORE: a host store to BUF while BUSY = 1. Raised by a host store. Safe: the outputs are
  then unspecified. -/
  | busyStore
  /-- F_UNINIT: a read of a BUF byte that nothing has written since power-on. Raised by a host load
  and by every command that reads BUF. Safe: the value is unspecified. -/
  | uninit
  /-- F_WINDOW: a host access outside the window. Raised by a host load or store. Safe: it does not
  reach MTPZ-CE. -/
  | window
deriving DecidableEq, Repr

/-- Why the model has no meaning for a command. -/
inductive Refusal where
  /-- The command's arm has no meaning yet. Raised by `exec` alone, for no command of this model.
  Safe: the machine stops. -/
  | notModelled (mnemonic : String)
deriving DecidableEq, Repr

/-- What a step answers. -/
abbrev Result := Host.Outcome State Fault Refusal

/-- `HASH.H` after reset (spec/10_state.md R42, spec/40_hash.md R111). -/
def HashWords.initial : HashWords :=
  { h0 := 0x67452301, h1 := 0xEFCDAB89, h2 := 0x98BADCFE, h3 := 0x10325476, h4 := 0xC3D2E1F0 }

/-- HASH after reset (spec/10_state.md R42). DESIGN CHOICE (log 6): BLK, to which the spec gives no
value, holds zeros. -/
def HashState.initial : HashState :=
  { h := HashWords.initial, blk := List.replicate 64 0, cnt := 0 }

/-- SCHED after reset (spec/10_state.md R42). DESIGN CHOICE (log 7): no round keys are held. -/
def Sched.initial : Sched :=
  { valid := false, keys := { nr := 0, ek := [], dk := [] } }

/-- KM after reset: all zero (spec/10_state.md R42). -/
def KeyMaterial.initial : KeyMaterial :=
  { valid := false, encKey := List.replicate 16 0, e := 0, n := 0, d := 0, cert := [], certLen := 0 }

/-- SESSION all zero (spec/10_state.md R42, spec/43_handshake.md R213). -/
def Session.zero : Session :=
  { nonce := List.replicate 16 0, skey := List.replicate 16 0, macHash := List.replicate 20 0,
    macCount := 0 }

/-- Five argument registers of 0 (spec/10_state.md R42). -/
def Args.zero : Args := { arg0 := 0, arg1 := 0, arg2 := 0, arg3 := 0, arg4 := 0 }

/-- Four enable words of 0 (spec/10_state.md R42). -/
def EnableWords.zero : EnableWords := { w0 := 0, w1 := 0, w2 := 0, w3 := 0 }

/-- The power-on state (spec/10_state.md R42, spec/70_reset_and_hazards.md R321). BUF holds no value.
DESIGN CHOICE (log 8): CUR_CMD, LARG and LTSTATUS, to which the spec gives no value, hold zero. The
model's own fields are empty or zero (logs 1, 2, 3, 10, 11), but for the parameters (log 4). -/
def State.reset : State :=
  { busy := false, err := false, drop := false, errCode := .ok, args := Args.zero, result := 0,
    tstatus := 0, enable := EnableWords.zero, buf := [], hash := HashState.initial,
    sched := Sched.initial, km := KeyMaterial.initial, hsState := .idle, hsFail := .ok,
    session := Session.zero, curCmd := 0, larg := Args.zero, ltstatus := 0,
    params := Config.params, draws := 0, randomInput := [], script := [], turns := [], hostRead := 0,
    scriptFailed := false }

end Sys2Proof.Machine
end

