-- ==== Sys2Proof/Machine/Ops.lean ====
section
/-! DEFINITION. The named operations over BUF, the registers and the command in flight: reading and
writing bytes, accepting a command, completing it with or without an error, entering Failed, the soft
reset and the draws. -/

namespace Sys2Proof.Machine

/-! ## BUF -/

/-- What a BUF byte that is not listed reads as: no value (spec/20_memory.md R72, log 9). -/
def Memory.unlisted (_offset : Nat) : Option Byte := none

/-- The byte at a BUF offset, if it holds a value (spec/20_memory.md R62, R72). -/
def Memory.read (m : Memory) (a : Nat) : Option Byte :=
  match m.lookup a with
  | some b => some b
  | none => Memory.unlisted a

/-- `MemRead(a, n)` (spec/00_scope.md R13), if every byte read holds a value. -/
def Memory.readBytes (m : Memory) (a : Nat) : Nat → Option Bytes
  | 0 => some []
  | n + 1 =>
    match m.read a with
    | none => none
    | some b => (Memory.readBytes m (a + 1) n).map (b :: ·)

/-- The cells of a byte string that starts at offset `a`. -/
def Memory.cells (a : Nat) : Bytes → Memory
  | [] => []
  | b :: bs => (a, b) :: Memory.cells (a + 1) bs

/-- `MemWrite(a, len(bs), bs)` (spec/00_scope.md R13). -/
def Memory.write (m : Memory) (a : Nat) (bs : Bytes) : Memory :=
  m.filter (fun c => c.1 < a) ++ Memory.cells a bs ++ m.filter (fun c => a + bs.length ≤ c.1)

/-- The canonical form: offsets strictly rising and inside BUF. No listed byte equals what an
unlisted one reads as, since that is no value. -/
abbrev Memory.wf (m : Memory) : Prop :=
  m.Pairwise (fun c d => c.1 < d.1) ∧ ∀ c ∈ m, c.1 < Config.bufSize

/-- `inbuf(a, n)` on unbounded integers (spec/20_memory.md R63). -/
def inbuf (a n : Nat) : Bool := a + n ≤ Config.bufSize

/-- Read an input operand and go on with its bytes. A byte that nothing has written is the fault
F_UNINIT (spec/20_memory.md R72). -/
def State.withBytes (s : State) (a n : Nat) (k : Bytes → Result) : Result :=
  match s.buf.readBytes a n with
  | some bs => k bs
  | none => .fault .uninit

/-- Write an output operand (spec/20_memory.md R65). -/
def State.storeBytes (s : State) (a : Nat) (bs : Bytes) : State :=
  { s with buf := s.buf.write a bs }

/-! ## Accepting and completing a command -/

/-- The acceptance of command word `v` (spec/10_state.md R40, the branch BUSY = 0). -/
def State.acceptCommand (s : State) (v : Word) : State :=
  { s with curCmd := v, larg := s.args, ltstatus := s.tstatus, err := false, errCode := .ok,
           drop := false, result := 0, busy := true }

/-- A host write of `v` to CMD (spec/10_state.md R40). -/
def State.writeCmd (s : State) (v : Word) : State :=
  if s.busy then { s with drop := true } else s.acceptCommand v

/-- `complete(r)` (spec/00_scope.md R13, spec/10_state.md R40): the command ends without error. -/
def State.completed (s : State) (r : Nat) : State :=
  { s with result := BitVec.ofNat 32 r, busy := false }

/-- `raise Error(code)` (spec/60_exceptions.md R283): the command ends with an error. Everything a
meaning had computed is discarded by raising on the state at acceptance. -/
def State.errored (s : State) (code : ErrCode) : State :=
  { s with err := true, errCode := code, result := 0, busy := false }

/-- `enter_failed(code)` (spec/43_handshake.md R213). -/
def State.enterFailed (s : State) (code : ErrCode) : State :=
  { s with hsState := .failed, hsFail := code, session := Session.zero, enable := EnableWords.zero }

/-- `hs_fail(code)` (spec/43_handshake.md R213). -/
def State.hsFailed (s : State) (code : ErrCode) : State :=
  (s.enterFailed code).errored code

/-! ## Reset and draws -/

/-- The soft reset (spec/70_reset_and_hazards.md R320): every piece of the spec's state but BUF takes
its reset value (spec/10_state.md R42). The model's own fields are not the machine's and stay. -/
def State.softReset (s : State) : State :=
  { State.reset with buf := s.buf, params := s.params, draws := s.draws, randomInput := s.randomInput,
                     script := s.script, turns := s.turns, hostRead := s.hostRead,
                     scriptFailed := s.scriptFailed }

/-- The next `n` draws: `draw_rng(n)` (spec/00_scope.md R13, log 3). Each is the byte the state lists
for it or, where it lists none, a byte of the opaque stream. -/
def State.drawn (s : State) (n : Nat) : Bytes :=
  (List.range n).map (fun k => s.randomInput.getD k (Config.draw (s.draws + k)))

/-- The state after `n` bytes have been drawn (log 3). -/
def State.afterDraw (s : State) (n : Nat) : State :=
  { s with draws := s.draws + n, randomInput := s.randomInput.drop n }

end Sys2Proof.Machine
end

