-- ==== Sys2Proof/Machine/Cipher.lean ====
section
/-! DEFINITION. The BlockCipherEngine's functions (spec/41_cipher.md R140 to R152, R162, R163, R170). A
block or a round key is a 16-byte string; byte r + 4c is row r, column c (R140). -/

namespace Sys2Proof.Machine

/-! ## Field and tables -/

/-- `xtime(a)` (spec/41_cipher.md R141). -/
def xtime (a : Byte) : Byte := (a <<< 1) ^^^ (if a.getLsbD 7 then 0x1B else 0)

/-- The XOR of `xtime^j(a)` over the set bits of the bit list `bits`, lowest first
(spec/41_cipher.md R141). -/
def gmulBits (a : Byte) : List Bool → Byte
  | [] => 0
  | b :: bs => (if b then a else 0) ^^^ gmulBits (xtime a) bs

/-- The product in GF(2^8) (spec/41_cipher.md R141). -/
def gmul (a b : Byte) : Byte := gmulBits a ((List.range 8).map b.getLsbD)

/-- The affine map A of the S-box (spec/41_cipher.md R142). -/
def sboxAffine (b : Byte) : Byte :=
  b ^^^ b.rotateLeft 1 ^^^ b.rotateLeft 2 ^^^ b.rotateLeft 3 ^^^ b.rotateLeft 4 ^^^ 0x63

/-- The S-box, one row for each high nibble (spec/41_cipher.md R142). -/
def sboxRows : List Bytes :=
  [[0x63, 0x7c, 0x77, 0x7b, 0xf2, 0x6b, 0x6f, 0xc5, 0x30, 0x01, 0x67, 0x2b, 0xfe, 0xd7, 0xab, 0x76],
   [0xca, 0x82, 0xc9, 0x7d, 0xfa, 0x59, 0x47, 0xf0, 0xad, 0xd4, 0xa2, 0xaf, 0x9c, 0xa4, 0x72, 0xc0],
   [0xb7, 0xfd, 0x93, 0x26, 0x36, 0x3f, 0xf7, 0xcc, 0x34, 0xa5, 0xe5, 0xf1, 0x71, 0xd8, 0x31, 0x15],
   [0x04, 0xc7, 0x23, 0xc3, 0x18, 0x96, 0x05, 0x9a, 0x07, 0x12, 0x80, 0xe2, 0xeb, 0x27, 0xb2, 0x75],
   [0x09, 0x83, 0x2c, 0x1a, 0x1b, 0x6e, 0x5a, 0xa0, 0x52, 0x3b, 0xd6, 0xb3, 0x29, 0xe3, 0x2f, 0x84],
   [0x53, 0xd1, 0x00, 0xed, 0x20, 0xfc, 0xb1, 0x5b, 0x6a, 0xcb, 0xbe, 0x39, 0x4a, 0x4c, 0x58, 0xcf],
   [0xd0, 0xef, 0xaa, 0xfb, 0x43, 0x4d, 0x33, 0x85, 0x45, 0xf9, 0x02, 0x7f, 0x50, 0x3c, 0x9f, 0xa8],
   [0x51, 0xa3, 0x40, 0x8f, 0x92, 0x9d, 0x38, 0xf5, 0xbc, 0xb6, 0xda, 0x21, 0x10, 0xff, 0xf3, 0xd2],
   [0xcd, 0x0c, 0x13, 0xec, 0x5f, 0x97, 0x44, 0x17, 0xc4, 0xa7, 0x7e, 0x3d, 0x64, 0x5d, 0x19, 0x73],
   [0x60, 0x81, 0x4f, 0xdc, 0x22, 0x2a, 0x90, 0x88, 0x46, 0xee, 0xb8, 0x14, 0xde, 0x5e, 0x0b, 0xdb],
   [0xe0, 0x32, 0x3a, 0x0a, 0x49, 0x06, 0x24, 0x5c, 0xc2, 0xd3, 0xac, 0x62, 0x91, 0x95, 0xe4, 0x79],
   [0xe7, 0xc8, 0x37, 0x6d, 0x8d, 0xd5, 0x4e, 0xa9, 0x6c, 0x56, 0xf4, 0xea, 0x65, 0x7a, 0xae, 0x08],
   [0xba, 0x78, 0x25, 0x2e, 0x1c, 0xa6, 0xb4, 0xc6, 0xe8, 0xdd, 0x74, 0x1f, 0x4b, 0xbd, 0x8b, 0x8a],
   [0x70, 0x3e, 0xb5, 0x66, 0x48, 0x03, 0xf6, 0x0e, 0x61, 0x35, 0x57, 0xb9, 0x86, 0xc1, 0x1d, 0x9e],
   [0xe1, 0xf8, 0x98, 0x11, 0x69, 0xd9, 0x8e, 0x94, 0x9b, 0x1e, 0x87, 0xe9, 0xce, 0x55, 0x28, 0xdf],
   [0x8c, 0xa1, 0x89, 0x0d, 0xbf, 0xe6, 0x42, 0x68, 0x41, 0x99, 0x2d, 0x0f, 0xb0, 0x54, 0xbb, 0x16]]

/-- The inverse S-box, one row for each high nibble (spec/41_cipher.md R143). -/
def invSboxRows : List Bytes :=
  [[0x52, 0x09, 0x6a, 0xd5, 0x30, 0x36, 0xa5, 0x38, 0xbf, 0x40, 0xa3, 0x9e, 0x81, 0xf3, 0xd7, 0xfb],
   [0x7c, 0xe3, 0x39, 0x82, 0x9b, 0x2f, 0xff, 0x87, 0x34, 0x8e, 0x43, 0x44, 0xc4, 0xde, 0xe9, 0xcb],
   [0x54, 0x7b, 0x94, 0x32, 0xa6, 0xc2, 0x23, 0x3d, 0xee, 0x4c, 0x95, 0x0b, 0x42, 0xfa, 0xc3, 0x4e],
   [0x08, 0x2e, 0xa1, 0x66, 0x28, 0xd9, 0x24, 0xb2, 0x76, 0x5b, 0xa2, 0x49, 0x6d, 0x8b, 0xd1, 0x25],
   [0x72, 0xf8, 0xf6, 0x64, 0x86, 0x68, 0x98, 0x16, 0xd4, 0xa4, 0x5c, 0xcc, 0x5d, 0x65, 0xb6, 0x92],
   [0x6c, 0x70, 0x48, 0x50, 0xfd, 0xed, 0xb9, 0xda, 0x5e, 0x15, 0x46, 0x57, 0xa7, 0x8d, 0x9d, 0x84],
   [0x90, 0xd8, 0xab, 0x00, 0x8c, 0xbc, 0xd3, 0x0a, 0xf7, 0xe4, 0x58, 0x05, 0xb8, 0xb3, 0x45, 0x06],
   [0xd0, 0x2c, 0x1e, 0x8f, 0xca, 0x3f, 0x0f, 0x02, 0xc1, 0xaf, 0xbd, 0x03, 0x01, 0x13, 0x8a, 0x6b],
   [0x3a, 0x91, 0x11, 0x41, 0x4f, 0x67, 0xdc, 0xea, 0x97, 0xf2, 0xcf, 0xce, 0xf0, 0xb4, 0xe6, 0x73],
   [0x96, 0xac, 0x74, 0x22, 0xe7, 0xad, 0x35, 0x85, 0xe2, 0xf9, 0x37, 0xe8, 0x1c, 0x75, 0xdf, 0x6e],
   [0x47, 0xf1, 0x1a, 0x71, 0x1d, 0x29, 0xc5, 0x89, 0x6f, 0xb7, 0x62, 0x0e, 0xaa, 0x18, 0xbe, 0x1b],
   [0xfc, 0x56, 0x3e, 0x4b, 0xc6, 0xd2, 0x79, 0x20, 0x9a, 0xdb, 0xc0, 0xfe, 0x78, 0xcd, 0x5a, 0xf4],
   [0x1f, 0xdd, 0xa8, 0x33, 0x88, 0x07, 0xc7, 0x31, 0xb1, 0x12, 0x10, 0x59, 0x27, 0x80, 0xec, 0x5f],
   [0x60, 0x51, 0x7f, 0xa9, 0x19, 0xb5, 0x4a, 0x0d, 0x2d, 0xe5, 0x7a, 0x9f, 0x93, 0xc9, 0x9c, 0xef],
   [0xa0, 0xe0, 0x3b, 0x4d, 0xae, 0x2a, 0xf5, 0xb0, 0xc8, 0xeb, 0xbb, 0x3c, 0x83, 0x53, 0x99, 0x61],
   [0x17, 0x2b, 0x04, 0x7e, 0xba, 0x77, 0xd6, 0x26, 0xe1, 0x69, 0x14, 0x63, 0x55, 0x21, 0x0c, 0x7d]]

/-- The entry of a table held in rows of 16. -/
def tableEntry (rows : List Bytes) (x : Byte) : Byte :=
  byteAt (rows.getD (x.toNat / 16) []) (x.toNat % 16)

/-- `SBOX[x]` (spec/41_cipher.md R142). -/
def sbox (x : Byte) : Byte := tableEntry sboxRows x

/-- `INVSBOX[x]` (spec/41_cipher.md R143). -/
def invSbox (x : Byte) : Byte := tableEntry invSboxRows x

/-- `RCON[j]`, for j from 1 to 10 (spec/41_cipher.md R148). -/
def rcon (j : Nat) : Byte := Nat.iterate xtime (j - 1) 0x01

/-! ## Transforms of a block -/

/-- `SubBytes` (spec/41_cipher.md R144). -/
def subBytes (s : Bytes) : Bytes := s.map sbox

/-- `InvSubBytes` (spec/41_cipher.md R144). -/
def invSubBytes (s : Bytes) : Bytes := s.map invSbox

/-- The block whose byte r + 4c is `f r c` (spec/41_cipher.md R140). -/
def blockOf (f : Nat → Nat → Byte) : Bytes := (List.range 16).map (fun i => f (i % 4) (i / 4))

/-- `ShiftRows` (spec/41_cipher.md R145). -/
def shiftRows (s : Bytes) : Bytes := blockOf (fun r c => byteAt s (r + 4 * ((c + r) % 4)))

/-- `InvShiftRows` (spec/41_cipher.md R145): (c - r) mod 4 is (c + 4 - r) mod 4 for r below 4. -/
def invShiftRows (s : Bytes) : Bytes := blockOf (fun r c => byteAt s (r + 4 * ((c + 4 - r) % 4)))

/-- `MixColumns` (spec/41_cipher.md R146). -/
def mixColumns (s : Bytes) : Bytes :=
  blockOf (fun r c =>
    let a := fun k => byteAt s ((r + k) % 4 + 4 * c)
    gmul 0x02 (a 0) ^^^ gmul 0x03 (a 1) ^^^ a 2 ^^^ a 3)

/-- `InvMixColumns` (spec/41_cipher.md R146). -/
def invMixColumns (s : Bytes) : Bytes :=
  blockOf (fun r c =>
    let a := fun k => byteAt s ((r + k) % 4 + 4 * c)
    gmul 0x0E (a 0) ^^^ gmul 0x0B (a 1) ^^^ gmul 0x0D (a 2) ^^^ gmul 0x09 (a 3))

/-! ## Key schedule -/

/-- `t` of word `i`, from word `i - 1` (spec/41_cipher.md R149). -/
def scheduleCore (nk i : Nat) (t : Bytes) : Bytes :=
  if i % nk = 0 then
    [sbox (byteAt t 1) ^^^ rcon (i / nk), sbox (byteAt t 2), sbox (byteAt t 3), sbox (byteAt t 0)]
  else if nk = 8 ∧ i % 8 = 4 then t.map sbox
  else t

/-- The words of the expanded key, newest first: `count` more words onto `w`
(spec/41_cipher.md R149). Word `i - 1` is then entry 0 and word `i - nk` entry `nk - 1`. -/
def extendKey (nk : Nat) : Nat → List Bytes → List Bytes
  | 0, w => w
  | count + 1, w =>
    extendKey nk count
      (xorBytes (w.getD (nk - 1) []) (scheduleCore nk w.length (w.getD 0 [])) :: w)

/-- `expandkey(K)`: words w[0 .. 4(Nr+1) - 1] (spec/41_cipher.md R149). -/
def expandKey (key : Bytes) : List Bytes :=
  let nk := key.length / 4
  let first := (List.range nk).map (fun i => slice key (4 * i) (4 * i + 4))
  (extendKey nk (4 * (nk + 7) - nk) first.reverse).reverse

/-- `mksched(K)` (spec/41_cipher.md R150). -/
def mksched (key : Bytes) : RoundKeys :=
  let nr := key.length / 4 + 6
  let w := expandKey key
  let ek := (List.range (nr + 1)).map (fun r =>
    w.getD (4 * r) [] ++ w.getD (4 * r + 1) [] ++ w.getD (4 * r + 2) [] ++ w.getD (4 * r + 3) [])
  let dk := (List.range (nr + 1)).map (fun r =>
    if r = 0 ∨ r = nr then ek.getD r [] else invMixColumns (ek.getD r []))
  { nr := nr, ek := ek, dk := dk }

/-! ## Block functions -/

/-- `EK[r]` (spec/10_state.md R31). -/
def RoundKeys.ekAt (k : RoundKeys) (r : Nat) : Bytes := k.ek.getD r []

/-- `DK[r]` (spec/10_state.md R31). -/
def RoundKeys.dkAt (k : RoundKeys) (r : Nat) : Bytes := k.dk.getD r []

/-- Inner round `r` of encryption (spec/41_cipher.md R151). -/
def encRound (k : RoundKeys) (s : Bytes) (r : Nat) : Bytes :=
  xorBytes (mixColumns (shiftRows (subBytes s))) (k.ekAt r)

/-- `encblk(S, B)` (spec/41_cipher.md R151). -/
def encblk (k : RoundKeys) (b : Bytes) : Bytes :=
  let s := xorBytes b (k.ekAt 0)
  let s := ((List.range (k.nr - 1)).map (· + 1)).foldl (encRound k) s
  xorBytes (shiftRows (subBytes s)) (k.ekAt k.nr)

/-- Inner round `r` of decryption (spec/41_cipher.md R152). -/
def decRound (k : RoundKeys) (s : Bytes) (r : Nat) : Bytes :=
  xorBytes (invMixColumns (invShiftRows (invSubBytes s))) (k.dkAt r)

/-- `decblk(S, B)`, with DK read from index NR down to 0 (spec/41_cipher.md R152). -/
def decblk (k : RoundKeys) (b : Bytes) : Bytes :=
  let s := xorBytes b (k.dkAt k.nr)
  let s := ((List.range (k.nr - 1)).map (· + 1)).reverse.foldl (decRound k) s
  xorBytes (invShiftRows (invSubBytes s)) (k.dkAt 0)

/-! ## Chained modes -/

/-- A chunk zero-padded to 16 bytes (spec/41_cipher.md R162, R163). -/
def padChunk (c : Bytes) : Bytes := c ++ zeros (16 - c.length)

/-- `chainenc` over `chunks` more chunks (spec/41_cipher.md R162). -/
def chainEncChunks (k : RoundKeys) : Nat → Bytes → Bytes → Bytes
  | 0, _, _ => []
  | chunks + 1, p, f =>
    let c := p.take 16
    let y := encblk k (xorBytes (padChunk c) f)
    y.take c.length ++ chainEncChunks k chunks (p.drop 16) y

/-- `chainenc(S, P, F0)` (spec/41_cipher.md R162). -/
def chainenc (k : RoundKeys) (p f0 : Bytes) : Bytes :=
  chainEncChunks k ((p.length + 15) / 16) p f0

/-- `chaindec` over `chunks` more chunks (spec/41_cipher.md R163). -/
def chainDecChunks (k : RoundKeys) : Nat → Bytes → Bytes → Bytes
  | 0, _, _ => []
  | chunks + 1, p, f =>
    let c := p.take 16
    let x := padChunk c
    let y := xorBytes (decblk k x) f
    y.take c.length ++ chainDecChunks k chunks (p.drop 16) x

/-- `chaindec(S, C, F0)` (spec/41_cipher.md R163). -/
def chaindec (k : RoundKeys) (c f0 : Bytes) : Bytes :=
  chainDecChunks k ((c.length + 15) / 16) c f0

/-! ## MAC -/

/-- `dbl(X)` (spec/41_cipher.md R170). -/
def dbl (x : Bytes) : Bytes :=
  beBytes ((beInt x * 2 % 2 ^ 128) ^^^ (if (byteAt x 0).getLsbD 7 then 0x87 else 0)) 16

/-- `mac(S, m)` for a seed of at most 16 bytes (spec/41_cipher.md R170). -/
def mac (k : RoundKeys) (m : Bytes) : Bytes :=
  let l := encblk k (zeros 16)
  let k1 := dbl l
  let k2 := dbl k1
  let block := if m.length = 16 then xorBytes m k1
    else xorBytes (m ++ [0x80] ++ zeros (15 - m.length)) k2
  encblk k block

end Sys2Proof.Machine
end

