-- ==== Sys2Proof/Machine/Operands.lean ====
section
/-! DEFINITION. The operand forms of the commands (spec/30_encoding.md R94, R97): each is a latched
argument read as an unsigned integer, or an optional 16-byte operand that a bit of the word selects. -/

namespace Sys2Proof.Machine

/-- `ARG[0]` of the command in execution (spec/10_state.md R35, spec/30_encoding.md R97). -/
def State.arg0 (s : State) : Nat := s.larg.arg0.toNat

/-- `ARG[1]`. -/
def State.arg1 (s : State) : Nat := s.larg.arg1.toNat

/-- `ARG[2]`. -/
def State.arg2 (s : State) : Nat := s.larg.arg2.toNat

/-- `ARG[3]`. -/
def State.arg3 (s : State) : Nat := s.larg.arg3.toNat

/-- `ARG[4]`. -/
def State.arg4 (s : State) : Nat := s.larg.arg4.toNat

/-- The range check of the optional 16-byte operand at ARG4: made only when it is read
(spec/41_cipher.md R160, R164). -/
def State.optionalInbuf (s : State) (present : Bool) : Bool :=
  if present then inbuf s.arg4 16 else true

/-- The optional 16-byte operand at ARG4, and `none` when the command word says it is absent; BUF is
then not read there. It is the seed of the single-block commands (spec/41_cipher.md R160, R161) and
the initial feedback of the chained ones (R164, R165). -/
def State.withOptional (s : State) (present : Bool) (k : Option Bytes → Result) : Result :=
  if present then s.withBytes s.arg4 16 (fun bs => k (some bs)) else k none

/-- XOR a seed, if there is one, into a block (spec/41_cipher.md R160, R161). -/
def seedInto (seed : Option Bytes) (b : Bytes) : Bytes :=
  match seed with
  | some x => xorBytes b x
  | none => b

/-- The initial feedback: the operand, or 16 zero bytes when Z = 1 (spec/41_cipher.md R164, R165). -/
def initialFeedback (iv : Option Bytes) : Bytes :=
  match iv with
  | some f => f
  | none => zeros 16

end Sys2Proof.Machine
end

