-- ==== Sys2Proof/Machine/CipherCommands.lean ====
section
/-! DEFINITION. The meanings of the BlockCipherEngine commands (spec/41_cipher.md R153 to R171). -/

namespace Sys2Proof.Machine

/-- AES_KEYSCHED (spec/41_cipher.md R153). STATUS.SCHED_VALID and SCHED_NR are views of SCHED. -/
def execAesKeysched (s : State) : Result :=
  if !(s.arg1 == 16 || s.arg1 == 24 || s.arg1 == 32) then .next (s.errored .badArg)
  else if !inbuf s.arg0 s.arg1 then .next (s.errored .badArg)
  else s.withBytes s.arg0 s.arg1 fun key =>
    .next (State.completed { s with sched := { valid := true, keys := mksched key } } 0)

/-- The checks that the single-block commands make (spec/41_cipher.md R160, R161); `some` is the code
of the first that fails. -/
def blockCheck (s : State) (seeded : Bool) : Option ErrCode :=
  if !s.sched.valid then some .noSched
  else if !inbuf s.arg0 16 || !inbuf s.arg2 16 then some .badArg
  else if !s.optionalInbuf seeded then some .badArg
  else none

/-- AES_ENC_BLOCK (spec/41_cipher.md R160): the seed is XORed before the first round. -/
def execAesEncBlock (seeded : Bool) (s : State) : Result :=
  match blockCheck s seeded with
  | some code => .next (s.errored code)
  | none =>
    s.withBytes s.arg0 16 fun b =>
      s.withOptional seeded fun seed =>
        .next ((s.storeBytes s.arg2 (encblk s.sched.keys (seedInto seed b))).completed 16)

/-- AES_DEC_BLOCK (spec/41_cipher.md R161): the seed is XORed after the last round. -/
def execAesDecBlock (seeded : Bool) (s : State) : Result :=
  match blockCheck s seeded with
  | some code => .next (s.errored code)
  | none =>
    s.withBytes s.arg0 16 fun b =>
      s.withOptional seeded fun seed =>
        .next ((s.storeBytes s.arg2 (seedInto seed (decblk s.sched.keys b))).completed 16)

/-- The checks that the chained commands make (spec/41_cipher.md R164, R165). -/
def chainCheck (s : State) (zeroIv : Bool) : Option ErrCode :=
  if !s.sched.valid then some .noSched
  else if !inbuf s.arg0 s.arg1 || !inbuf s.arg2 s.arg1 then some .badArg
  else if !s.optionalInbuf (!zeroIv) then some .badArg
  else none

/-- AES_CHAIN_ENC (spec/41_cipher.md R164). -/
def execAesChainEnc (zeroIv : Bool) (s : State) : Result :=
  match chainCheck s zeroIv with
  | some code => .next (s.errored code)
  | none =>
    s.withOptional (!zeroIv) fun iv =>
      s.withBytes s.arg0 s.arg1 fun p =>
        .next ((s.storeBytes s.arg2 (chainenc s.sched.keys p (initialFeedback iv))).completed s.arg1)

/-- AES_CHAIN_DEC (spec/41_cipher.md R165). -/
def execAesChainDec (zeroIv : Bool) (s : State) : Result :=
  match chainCheck s zeroIv with
  | some code => .next (s.errored code)
  | none =>
    s.withOptional (!zeroIv) fun iv =>
      s.withBytes s.arg0 s.arg1 fun c =>
        .next ((s.storeBytes s.arg2 (chaindec s.sched.keys c (initialFeedback iv))).completed s.arg1)

/-- AES_MAC (spec/41_cipher.md R171). -/
def execAesMac (s : State) : Result :=
  if !s.sched.valid then .next (s.errored .noSched)
  else if s.arg1 > 16 then .next (s.errored .badArg)
  else if !inbuf s.arg0 s.arg1 || !inbuf s.arg2 16 then .next (s.errored .badArg)
  else s.withBytes s.arg0 s.arg1 fun m =>
    .next ((s.storeBytes s.arg2 (mac s.sched.keys m)).completed 16)

end Sys2Proof.Machine
end

