-- ==== Sys2Proof/Machine/Hash.lean ====
section
/-! DEFINITION. The HashEngine's functions (spec/40_hash.md R111 to R116). -/

namespace Sys2Proof.Machine

/-- `hreset(h)` (spec/40_hash.md R111). BLK is not changed. -/
def hreset (h : HashState) : HashState := { h with h := HashWords.initial, cnt := 0 }

/-- `W[0..15]` of a block (spec/40_hash.md R112). -/
def blockWords (b : Bytes) : List Word :=
  (List.range 16).map (fun t => BitVec.ofNat 32 (beInt (slice b (4 * t) (4 * t + 4))))

/-- One more word of the schedule, which is held newest first: `W[t]` from `W[t-3]`, `W[t-8]`,
`W[t-14]` and `W[t-16]` (spec/40_hash.md R112). -/
def extendSchedule (w : List Word) : List Word :=
  rotl32 (w.getD 2 0 ^^^ w.getD 7 0 ^^^ w.getD 13 0 ^^^ w.getD 15 0) 1 :: w

/-- `W[0..79]` (spec/40_hash.md R112). -/
def messageSchedule (b : Bytes) : List Word :=
  (Nat.iterate extendSchedule 64 (blockWords b).reverse).reverse

/-- The round function of round `t` (spec/40_hash.md R112). -/
def roundFunction (t : Nat) (b c d : Word) : Word :=
  if t ≤ 19 then ch b c d else if t ≤ 39 then parity b c d else if t ≤ 59 then maj b c d
  else parity b c d

/-- The round constant of round `t` (spec/40_hash.md R112). -/
def roundConstant (t : Nat) : Word :=
  if t ≤ 19 then 0x5A827999 else if t ≤ 39 then 0x6ED9EBA1 else if t ≤ 59 then 0x8F1BBCDC
  else 0xCA62C1D6

/-- Round `t` on the working variables a to e, held as h0 to h4 (spec/40_hash.md R112). -/
def hashRound (t : Nat) (w : Word) (v : HashWords) : HashWords :=
  { h0 := rotl32 v.h0 5 + roundFunction t v.h1 v.h2 v.h3 + v.h4 + roundConstant t + w
    h1 := v.h0, h2 := rotl32 v.h1 30, h3 := v.h2, h4 := v.h3 }

/-- The rounds from round `t` on, one for each schedule word (spec/40_hash.md R112). -/
def hashRounds (t : Nat) : List Word → HashWords → HashWords
  | [], v => v
  | w :: ws, v => hashRounds (t + 1) ws (hashRound t w v)

/-- `compress(H, B)` (spec/40_hash.md R112). -/
def compress (h : HashWords) (b : Bytes) : HashWords :=
  let v := hashRounds 0 (messageSchedule b) h
  { h0 := h.h0 + v.h0, h1 := h.h1 + v.h1, h2 := h.h2 + v.h2, h3 := h.h3 + v.h3, h4 := h.h4 + v.h4 }

/-- The number of pending bytes in BLK (spec/10_state.md R32). -/
def HashState.pending (h : HashState) : Nat := (h.cnt >>> 3).toNat % 64

/-- One byte of `hupdate` (spec/40_hash.md R113). -/
def hupdateByte (h : HashState) (x : Byte) : HashState :=
  let p := h.pending
  let blk := h.blk.set p x
  { h := if p = 63 then compress h.h blk else h.h, blk := blk, cnt := h.cnt + 8 }

/-- `hupdate(h, data)` (spec/40_hash.md R113). -/
def hupdate (h : HashState) (data : Bytes) : HashState := data.foldl hupdateByte h

/-- The padded tail T (spec/40_hash.md R114). -/
def paddedTail (h : HashState) : Bytes :=
  let t := h.blk.take h.pending ++ [0x80]
  let t := if 64 - t.length < 8 then t ++ zeros (128 - t.length - 8) else t ++ zeros (64 - t.length - 8)
  t ++ be64 h.cnt

/-- The digest bytes of the accumulator words (spec/40_hash.md R114). -/
def HashWords.bytes (h : HashWords) : Bytes :=
  be32 h.h0 ++ be32 h.h1 ++ be32 h.h2 ++ be32 h.h3 ++ be32 h.h4

/-- The accumulator words after the padded tail (spec/40_hash.md R114). -/
def finalWords (h : HashState) : HashWords :=
  let t := paddedTail h
  (List.range (t.length / 64)).foldl (fun v j => compress v (slice t (64 * j) (64 * j + 64))) h.h

/-- `hfinal(h)`: the bytes it returns (spec/40_hash.md R114). -/
def hfinalBytes (h : HashState) : Bytes := (finalWords h).bytes

/-- `hfinal(h)`: the instance it leaves (spec/40_hash.md R114). -/
def hfinalState (h : HashState) : HashState := hreset { h with h := finalWords h }

/-- `digest(m)` (spec/40_hash.md R115): a fresh instance, reset, fed and finalised. -/
def digest (m : Bytes) : Bytes := hfinalBytes (hupdate (hreset HashState.initial) m)

/-- `expand(m, outLen)` (spec/40_hash.md R116). -/
def expand (m : Bytes) (outLen : Nat) : Bytes :=
  ((List.range ((outLen + 19) / 20)).flatMap (fun i => digest (m ++ be32 (BitVec.ofNat 32 i)))).take
    outLen

end Sys2Proof.Machine
end

