-- ==== Sys2Proof/Machine/Rsa.lean ====
section
/-! DEFINITION. The RsaEngine's function (spec/42_rsa.md R191). -/

namespace Sys2Proof.Machine

/-- Square and multiply over the low `fuel` bits of `ex`, lowest first: the result is
`acc * x^ex mod n` for `ex < 2^fuel`. -/
def powModBits (n : Nat) : Nat → Nat → Nat → Nat → Nat
  | 0, _, _, acc => acc
  | fuel + 1, x, ex, acc =>
    powModBits n fuel (x * x % n) (ex / 2) (if ex % 2 = 1 then acc * x % n else acc)

/-- `pow(x, e, n)` = `x^e mod n` (spec/00_scope.md R12); the integer 0 gives 0, with the exponent 0 too
(spec/42_rsa.md R192, R193, log 19: DEDUCED), since the product then starts from 0 and stays 0. It is
computed by square and multiply so that it can be evaluated on 1024-bit numbers; `powMod_eq`
(Laws/Rsa.lean) says that it is that power. -/
def powMod (x ex n : Nat) : Nat :=
  powModBits n (ex.log2 + 1) (x % n) ex (if x = 0 then 0 else 1 % n)

/-- `rsa(x, ex, n, outLen)`; `none` is FAIL (spec/42_rsa.md R191). -/
def rsa (x : Bytes) (ex n outLen : Nat) : Option Bytes :=
  let v := powMod (beInt x) ex n
  if minlen v > outLen then none else some (beBytes v outLen)

end Sys2Proof.Machine
end

