-- ==== Sys2Proof/Machine/Handshake.lean ====
section
/-! DEFINITION. The HandshakeOrchestrator's functions: the certificate message, the checks and the
parsing of the device response (spec/43_handshake.md R222, R223, R230 to R234). They use fresh hash
instances and schedules and so touch neither HASH nor SCHED (R215). -/

namespace Sys2Proof.Machine

/-- `certbody(nonce)` (spec/43_handshake.md R222). -/
def certBody (cert nonce : Bytes) : Bytes :=
  [0x02, 0x01, 0x01, 0x00, 0x00, 0x02, 0x75] ++ cert ++ [0x00, 0x10] ++ nonce ++ [0x01, 0x00, 0x80]

/-- The 28-byte buffer W that wraps the first digest (spec/43_handshake.md R223). -/
def wrapDigest (p : Params) (mh : Bytes) : Bytes := spliceAt (zeros 28) p.sigWrapOffset.val mh

/-- The second digest H of `sigblock(T)` (spec/43_handshake.md R223). -/
def sigDigest (p : Params) (t : Bytes) : Bytes := digest (wrapDigest p (digest t))

/-- The pre-signature buffer EM (spec/43_handshake.md R223), in the order of the rule: the marker and
the digest, the keystream, the top bit of byte 0, the trailer. -/
def sigBuffer (p : Params) (h : Bytes) : Bytes :=
  let mask := expand h 107
  let em := spliceAt (zeros 128) 106 [p.sigMarker]
  let em := spliceAt em 107 h
  let em := spliceAt em 0 (xorBytes (slice em 0 107) mask)
  let em := spliceAt em 0 [byteAt em 0 &&& 0x7F]
  spliceAt em 127 [p.sigTrailer]

/-- `sigblock(T)`; `none` is FAIL (spec/43_handshake.md R223). -/
def sigBlock (p : Params) (km : KeyMaterial) (t : Bytes) : Option Bytes :=
  rsa (sigBuffer p (sigDigest p t)) km.d km.n 128

/-- `framing_ok(R)` (spec/43_handshake.md R230). -/
def framingOk (r : Bytes) : Bool :=
  r.length == 968 && byteAt r 0 == 0x02 && byteAt r 1 == 0x02 && byteAt r 3 == 0x80 &&
    byteAt r 134 == 0x03 && byteAt r 135 == 0x40

/-- The 128-byte buffer D after both XORs of `unwrap(X)` (spec/43_handshake.md R231). -/
def unwrapBuffer (x : Bytes) : Bytes :=
  let d := spliceAt x 1 (xorBytes (slice x 1 21) (expand (slice x 21 128) 20))
  spliceAt d 21 (xorBytes (slice d 21 128) (expand (slice d 1 21) 107))

/-- `unwrap(X)`: the session key (spec/43_handshake.md R231). -/
def unwrap (x : Bytes) : Bytes := slice (unwrapBuffer x) 112 128

/-- The decrypted payload PL of a response (spec/43_handshake.md R232). -/
def decryptPayload (p : Params) (skey r : Bytes) : Bytes :=
  chaindec (mksched skey) (slice r 136 968) p.hsIv.toList

/-- `take(n)` of `parse`: the field at the cursor and the cursor after it; `none` is the underrun
(spec/43_handshake.md R233). -/
def takeField (pl : Bytes) (q n : Nat) : Option (Bytes × Nat) :=
  if q + n > pl.length then none else some (slice pl q (q + n), q + n)

/-- A field with a big-endian length of `lenBytes` bytes before it (spec/43_handshake.md R233). -/
def takePrefixed (pl : Bytes) (q lenBytes : Nat) : Option (Bytes × Nat) :=
  match takeField pl q lenBytes with
  | none => none
  | some (l, q) => takeField pl q (beInt l)

/-- `parse(PL)`: the echo and the device MAC-hash; `none` is FRAMING (spec/43_handshake.md R233). -/
def parsePayload (pl : Bytes) : Option (Bytes × Bytes) := do
  let (_, q) ← takeField pl 0 1
  let (_, q) ← takePrefixed pl q 4
  let (echo, q) ← takePrefixed pl q 2
  let (_, q) ← takePrefixed pl q 2
  let (_, q) ← takeField pl q 1
  let (_, q) ← takePrefixed pl q 2
  let (_, q) ← takeField pl q 1
  let (mh, _) ← takePrefixed pl q 2
  if mh.length = 20 then some (echo, mh) else none

/-- SESSION.MACCOUNT from the device MAC-hash (spec/43_handshake.md R235). -/
def macCountOf (p : Params) (mh : Bytes) : Word :=
  BitVec.ofNat 32 (beInt (slice mh p.macCountOffset.val (p.macCountOffset.val + 4)))

/-- The seed of the confirmation MAC (spec/43_handshake.md R240). -/
def confirmSeed : Bytes := zeros 15 ++ [0x01]

/-- The confirmation message (spec/43_handshake.md R240). -/
def confirmMessage (skey : Bytes) : Bytes :=
  [0x02, 0x03, 0x00, 0x10] ++ mac (mksched skey) confirmSeed

/-- The enable words (spec/43_handshake.md R245). -/
def enableWordsOf (skey : Bytes) (count : Word) : EnableWords :=
  let m := mac (mksched skey) (be32 count)
  let w := fun i => BitVec.ofNat 32 (beInt (slice m (4 * i) (4 * i + 4)))
  { w0 := w 0, w1 := w 1, w2 := w 2, w3 := w 3 }

end Sys2Proof.Machine
end

