-- ==== Sys2Proof/Machine/HandshakeCommands.lean ====
section
/-! DEFINITION. The meanings of the HandshakeOrchestrator commands (spec/43_handshake.md R220 to
R250). -/

namespace Sys2Proof.Machine

/-- HS_START (spec/43_handshake.md R220). -/
def execHsStart (s : State) : Result :=
  if !s.km.valid then .next (s.hsFailed .noKeymat)
  else .next (State.completed
    { s with hsFail := .ok, session := Session.zero, enable := EnableWords.zero, hsState := .reset } 0)

/-- HS_CERT once a nonce is drawn (spec/43_handshake.md R221). -/
def certWithNonce (p : Params) (nonce : Bytes) (s : State) : Result :=
  let b := certBody s.km.cert nonce
  match sigBlock p s.km (slice b 2 654) with
  | none => .next (s.hsFailed .crypto)
  | some sig =>
    let s := s.storeBytes s.arg2 (b ++ sig)
    .next (State.completed
      { s with session := { s.session with nonce := nonce }, hsState := .certSent } 785)

/-- HS_CERT (spec/43_handshake.md R221). The nonce is 16 draws (log 3); they count as drawn also when
the signature then fails. -/
def execHsCert (s : State) : Result :=
  if s.hsState ≠ .reset then .next (s.hsFailed .sequence)
  else if !inbuf s.arg2 785 then .next (s.hsFailed .badArg)
  else if s.ltstatus ≠ 0 then .next (s.hsFailed .transport)
  else if s.km.certLen ≠ Config.certBytes then .next (s.hsFailed .kmInvalid)
  else certWithNonce s.params (s.drawn 16) (s.afterDraw 16)

/-- HS_RESPONSE on the response bytes (spec/43_handshake.md R235), from the framing check on. -/
def acceptResponse (p : Params) (r : Bytes) (s : State) : Result :=
  if !framingOk r then .next (s.hsFailed .framing)
  else match rsa (slice r 4 132) s.km.d s.km.n 128 with
    | none => .next (s.hsFailed .crypto)
    | some x =>
      let sk := unwrap x
      match parsePayload (decryptPayload p sk r) with
      | none => .next (s.hsFailed .framing)
      | some (echo, mh) =>
        if echo ≠ s.session.nonce then .next (s.hsFailed .auth)
        else .next (State.completed
          { s with
            session := { s.session with skey := sk, macHash := mh, macCount := macCountOf p mh }
            hsState := .responseValidated } 0)

/-- HS_RESPONSE (spec/43_handshake.md R235). -/
def execHsResponse (s : State) : Result :=
  if s.hsState ≠ .certSent then .next (s.hsFailed .sequence)
  else if !inbuf s.arg0 s.arg1 then .next (s.hsFailed .badArg)
  else if s.ltstatus ≠ 0 then .next (s.hsFailed .transport)
  else s.withBytes s.arg0 s.arg1 fun r => acceptResponse s.params r s

/-- HS_CONFIRM (spec/43_handshake.md R240). -/
def execHsConfirm (s : State) : Result :=
  if s.hsState ≠ .responseValidated then .next (s.hsFailed .sequence)
  else if !inbuf s.arg2 20 then .next (s.hsFailed .badArg)
  else
    let s' := s.storeBytes s.arg2 (confirmMessage s.session.skey)
    .next (State.completed { s' with hsState := .confirmed } 20)

/-- HS_OPEN (spec/43_handshake.md R245). -/
def execHsOpen (s : State) : Result :=
  if s.hsState ≠ .confirmed then .next (s.hsFailed .sequence)
  else if s.ltstatus ≠ 0 then .next (s.hsFailed .transport)
  else .next (State.completed
    { s with enable := enableWordsOf s.session.skey s.session.macCount, hsState := .sessionOpen } 0)

/-- HS_ABORT (spec/43_handshake.md R250). -/
def execHsAbort (s : State) : Result :=
  .next ((s.enterFailed .aborted).completed 0)

end Sys2Proof.Machine
end

