-- ==== Sys2Proof/Machine/HashCommands.lean ====
section
/-! DEFINITION. The meanings of the HashEngine commands (spec/40_hash.md R117 to R120). -/

namespace Sys2Proof.Machine

/-- HASH_RESET (spec/40_hash.md R117). -/
def execHashReset (s : State) : Result :=
  .next (State.completed { s with hash := hreset s.hash } 0)

/-- HASH_UPDATE (spec/40_hash.md R118). -/
def execHashUpdate (s : State) : Result :=
  if !inbuf s.arg0 s.arg1 then .next (s.errored .badArg)
  else s.withBytes s.arg0 s.arg1 fun data =>
    .next (State.completed { s with hash := hupdate s.hash data } 0)

/-- HASH_FINAL (spec/40_hash.md R119). -/
def execHashFinal (s : State) : Result :=
  if !inbuf s.arg2 20 then .next (s.errored .badArg)
  else .next (State.completed
    (State.storeBytes { s with hash := hfinalState s.hash } s.arg2 (hfinalBytes s.hash)) 20)

/-- HASH_EXPAND (spec/40_hash.md R120). -/
def execHashExpand (s : State) : Result :=
  if !inbuf s.arg0 s.arg1 then .next (s.errored .badArg)
  else if !inbuf s.arg2 s.arg3 then .next (s.errored .badArg)
  else s.withBytes s.arg0 s.arg1 fun m =>
    .next ((s.storeBytes s.arg2 (expand m s.arg3)).completed s.arg3)

end Sys2Proof.Machine
end

