-- ==== Sys2Proof/Machine/KeyMaterialCommands.lean ====
section
/-! DEFINITION. The meanings of KM_LOAD and NOP (spec/44_keymaterial.md R260 to R265). -/

namespace Sys2Proof.Machine

/-- The length of the key-material image (spec/44_keymaterial.md R260). -/
def imageBytes : Nat := 1037

/-- The key material an image holds; `none` when it is malformed (spec/44_keymaterial.md R260,
R261). -/
def parseImage (i : Bytes) : Option KeyMaterial :=
  let el := beInt (slice i 16 18)
  let nl := beInt (slice i 18 20)
  let dl := beInt (slice i 20 22)
  let cl := beInt (slice i 22 24)
  if el < 1 ∨ el > 128 ∨ nl < 1 ∨ nl > 128 ∨ dl < 1 ∨ dl > 128 ∨ cl > 629 then none
  else
    let n := beInt (slice i 152 (152 + nl))
    if n < 2 then none
    else some
      { valid := true, encKey := slice i 0 16, e := beInt (slice i 24 (24 + el)), n := n,
        d := beInt (slice i 280 (280 + dl)), cert := slice i 408 (408 + cl), certLen := cl }

/-- KM_LOAD (spec/44_keymaterial.md R261). -/
def execKmLoad (s : State) : Result :=
  if s.km.valid then .next (s.errored .kmLocked)
  else if !inbuf s.arg0 imageBytes then .next (s.errored .badArg)
  else s.withBytes s.arg0 imageBytes fun image =>
    match parseImage image with
    | none => .next (s.errored .kmInvalid)
    | some km => .next (State.completed { s with km := km } 0)

/-- NOP (spec/44_keymaterial.md R265). -/
def execNop (s : State) : Result := .next (s.completed 0)

end Sys2Proof.Machine
end

