-- ==== Sys2Proof/Machine/RsaCommands.lean ====
section
/-! DEFINITION. The meanings of the RsaEngine commands (spec/42_rsa.md R192, R193). -/

namespace Sys2Proof.Machine

/-- The raw transform with exponent `ex` of the loaded key (spec/42_rsa.md R192, R193). -/
def rsaCommand (ex : Nat) (s : State) : Result :=
  if !s.km.valid then .next (s.errored .noKeymat)
  else if s.arg1 > Config.rsaBytes || s.arg3 == 0 || s.arg3 > Config.rsaBytes then
    .next (s.errored .badArg)
  else if !inbuf s.arg0 s.arg1 || !inbuf s.arg2 s.arg3 then .next (s.errored .badArg)
  else s.withBytes s.arg0 s.arg1 fun x =>
    match rsa x ex s.km.n s.arg3 with
    | none => .next (s.errored .crypto)
    | some y => .next ((s.storeBytes s.arg2 y).completed s.arg3)

/-- RSA_PRIV (spec/42_rsa.md R192): the private exponent. -/
def execRsaPriv (s : State) : Result := rsaCommand s.km.d s

/-- RSA_PUB (spec/42_rsa.md R193): the public exponent. -/
def execRsaPub (s : State) : Result := rsaCommand s.km.e s

end Sys2Proof.Machine
end

