-- ==== Sys2Proof/Machine/Dispatch.lean ====
section
/-! DEFINITION. One arm for each command (spec/30_encoding.md R94). -/

namespace Sys2Proof.Machine

def exec (i : Instr) (s : State) : Host.Outcome State Fault Refusal :=
  match i with
  | .nop => Sys2Proof.Machine.execNop s
  | .hashReset => Sys2Proof.Machine.execHashReset s
  | .hashUpdate => Sys2Proof.Machine.execHashUpdate s
  | .hashFinal => Sys2Proof.Machine.execHashFinal s
  | .hashExpand => Sys2Proof.Machine.execHashExpand s
  | .aesKeysched => Sys2Proof.Machine.execAesKeysched s
  | .aesEncBlock seeded => Sys2Proof.Machine.execAesEncBlock seeded s
  | .aesDecBlock seeded => Sys2Proof.Machine.execAesDecBlock seeded s
  | .aesChainEnc zeroIv => Sys2Proof.Machine.execAesChainEnc zeroIv s
  | .aesChainDec zeroIv => Sys2Proof.Machine.execAesChainDec zeroIv s
  | .aesMac => Sys2Proof.Machine.execAesMac s
  | .rsaPriv => Sys2Proof.Machine.execRsaPriv s
  | .rsaPub => Sys2Proof.Machine.execRsaPub s
  | .kmLoad => Sys2Proof.Machine.execKmLoad s
  | .hsStart => Sys2Proof.Machine.execHsStart s
  | .hsCert => Sys2Proof.Machine.execHsCert s
  | .hsResponse => Sys2Proof.Machine.execHsResponse s
  | .hsConfirm => Sys2Proof.Machine.execHsConfirm s
  | .hsOpen => Sys2Proof.Machine.execHsOpen s
  | .hsAbort => Sys2Proof.Machine.execHsAbort s

end Sys2Proof.Machine
end

