-- ==== Sys2Proof/Machine/Engine.lean ====
section
/-! DEFINITION. The Engine's step and the choice of who moves (spec/10_state.md R40). -/

namespace Sys2Proof.Machine

/-- The Engine's one step: decode CUR_CMD and run the command; an illegal word completes with
ILLEGAL_CMD and no other effect (spec/10_state.md R40, spec/30_encoding.md R93). -/
def engineStep (s : State) : Result :=
  match decode s.curCmd with
  | .ok i => exec i s
  | .error _ => .next (s.errored .illegalCmd)

/-- Who moves (spec/10_state.md R40, log 2). While BUSY = 1 the list `turns` says so, and the Engine
moves when the list is exhausted or the Host has no access to make; while BUSY = 0 only the Host can
move, and with no access left nobody does (spec/70_reset_and_hazards.md R322). -/
def State.mover (s : State) : Option Agent :=
  if s.busy then
    match s.turns, s.script with
    | .host :: _, _ :: _ => some .host
    | _, _ => some .engine
  else if s.script.isEmpty then none else some .host

/-- The turn just taken is struck off (log 2). -/
def State.popTurn (s : State) : State :=
  if s.busy then { s with turns := s.turns.tail } else s

/-- A command placed as an accepted CMD write leaves it, with the Engine to move next (log 1). -/
def State.placeCommand (s : State) (v : Word) : State := { s.acceptCommand v with turns := [] }

end Sys2Proof.Machine
end

