-- ==== Sys2Proof/Machine/Flags.lean ====
section
/-! DEFINITION. The status registers as the Host reads them: STATUS (spec/10_state.md R24) and
HS_STATUS (R29), with the numbers of the error codes and of the handshake states. -/

namespace Sys2Proof.Machine

/-- The number of an error code (spec/60_exceptions.md R281). -/
def ErrCode.code : ErrCode → BitVec 8
  | .ok => 0
  | .illegalCmd => 1
  | .badArg => 2
  | .noSched => 3
  | .noKeymat => 4
  | .kmLocked => 5
  | .kmInvalid => 6
  | .crypto => 7
  | .sequence => 8
  | .transport => 9
  | .framing => 10
  | .auth => 11
  | .aborted => 12

/-- The number of a handshake state (spec/43_handshake.md R210). -/
def HsState.code : HsState → BitVec 4
  | .idle => 0
  | .reset => 1
  | .certSent => 2
  | .responseValidated => 3
  | .confirmed => 4
  | .sessionOpen => 5
  | .failed => 6

/-- STATUS.SCHED_NR: `SCHED.NR` modulo 16 while a schedule is loaded, else 0 (spec/10_state.md R24). -/
def Sched.nrField (c : Sched) : BitVec 4 := if c.valid then BitVec.ofNat 4 c.keys.nr else 0

/-- STATUS, from bit 31 down (spec/10_state.md R24). -/
def State.status (s : State) : Word :=
  (0 : BitVec 8) ++ s.sched.nrField ++ (0 : BitVec 2) ++ BitVec.ofBool s.sched.valid ++
    BitVec.ofBool s.km.valid ++ s.errCode.code ++ (0 : BitVec 5) ++ BitVec.ofBool s.drop ++
    BitVec.ofBool s.err ++ BitVec.ofBool s.busy

/-- HS_STATUS, from bit 31 down (spec/10_state.md R29). -/
def State.hsStatus (s : State) : Word :=
  (0 : BitVec 16) ++ s.hsFail.code ++ (0 : BitVec 4) ++ s.hsState.code

end Sys2Proof.Machine
end

