-- ==== Sys2Proof/Machine/Window.lean ====
section
/-! DEFINITION. The Host's accesses to the window (spec/20_memory.md R60 to R72, spec/10_state.md R21
to R30, R41) and the Host's step. -/

namespace Sys2Proof.Machine

/-- The window offset a host access names; `none` outside the window (spec/20_memory.md R61). -/
def HostAddr.offset (p : Params) : HostAddr → Option Nat
  | .window off => if off < Config.windowSize then some off else none
  | .absolute a => if p.base ≤ a ∧ a < p.base + Config.windowSize then some (a - p.base) else none

/-- The fault of an access of `width` bytes at a window offset, which P_BASE does not unalign (log 5):
F_WIDTH in the register space (spec/20_memory.md R66), F_BUFACC in BUF (R64). Which of the two spaces
a misaligned access falls in is said by its first byte (log 12). -/
def accessFault (off width : Nat) : Option Fault :=
  if off < Config.bufWindow then
    if width = 4 ∧ off % 4 = 0 then none else some .width
  else if (width = 1 ∨ width = 2 ∨ width = 4) ∧ off % width = 0 then none
  else some .bufAcc

/-- What a register reads as (spec/10_state.md R21): write-only registers and reserved offsets read
0 (spec/20_memory.md R70). -/
def State.readRegister (s : State) (off : Nat) : Word :=
  match off with
  | 0x000 => Config.idConstant
  | 0x008 => s.status
  | 0x010 => s.args.arg0
  | 0x014 => s.args.arg1
  | 0x018 => s.args.arg2
  | 0x01C => s.args.arg3
  | 0x020 => s.args.arg4
  | 0x024 => s.result
  | 0x028 => s.tstatus
  | 0x02C => s.hsStatus
  | 0x030 => s.enable.w0
  | 0x034 => s.enable.w1
  | 0x038 => s.enable.w2
  | 0x03C => s.enable.w3
  | _ => 0

/-- A host store to a register (spec/10_state.md R21): read-only registers and reserved offsets ignore
it (spec/20_memory.md R70). -/
def State.writeRegister (s : State) (off : Nat) (v : Word) : State :=
  match off with
  | 0x004 => if v.getLsbD 0 then s.softReset else s
  | 0x00C => s.writeCmd v
  | 0x010 => { s with args := { s.args with arg0 := v } }
  | 0x014 => { s with args := { s.args with arg1 := v } }
  | 0x018 => { s with args := { s.args with arg2 := v } }
  | 0x01C => { s with args := { s.args with arg3 := v } }
  | 0x020 => { s with args := { s.args with arg4 := v } }
  | 0x028 => { s with tstatus := v }
  | _ => s

/-- The Host receives a value (log 11). -/
def State.received (s : State) (v : Word) : State := { s with hostRead := v }

/-- A host load of BUF at a BUF offset (spec/20_memory.md R64). While BUSY = 1 each byte is a draw
(R71, spec/70_reset_and_hazards.md R325, log 11). -/
def State.loadBuf (s : State) (k width : Nat) : Result :=
  if s.busy then .next ((s.afterDraw width).received (BitVec.ofNat 32 (leInt (s.drawn width))))
  else s.withBytes k width fun bs => .next (s.received (BitVec.ofNat 32 (leInt bs)))

/-- A host store to BUF at a BUF offset (spec/20_memory.md R64, R71). -/
def State.storeBuf (s : State) (k width : Nat) (v : Word) : Result :=
  if s.busy then .fault .busyStore
  else .next (s.storeBytes k (leBytes v.toNat width))

/-- A host load (spec/20_memory.md R64, R66). -/
def State.hostLoad (s : State) (width : Nat) (addr : HostAddr) : Result :=
  match addr.offset s.params with
  | none => .fault .window
  | some off =>
    match accessFault off width with
    | some f => .fault f
    | none =>
      if off < Config.bufWindow then .next (s.received (s.readRegister off))
      else s.loadBuf (off - Config.bufWindow) width

/-- A host store (spec/20_memory.md R64, R66). -/
def State.hostStore (s : State) (width : Nat) (addr : HostAddr) (v : Word) : Result :=
  match addr.offset s.params with
  | none => .fault .window
  | some off =>
    match accessFault off width with
    | some f => .fault f
    | none =>
      if off < Config.bufWindow then .next (s.writeRegister off v)
      else s.storeBuf (off - Config.bufWindow) width v

/-- One host access with the accesses after it still to be made. `wait` makes one poll of STATUS and
stays while BUSY reads 1; `check` fails the script when ERR or DROP reads 1 (spec/30_encoding.md R99,
log 10). -/
def State.hostAccess (s : State) (op : HostOp) : Result :=
  match op with
  | .load width addr => s.hostLoad width addr
  | .store width addr v => s.hostStore width addr v
  | .wait =>
    let v := s.status
    if v.getLsbD 0 then .next { s.received v with script := .wait :: s.script }
    else .next (s.received v)
  | .check =>
    let v := s.status
    .next { s.received v with scriptFailed := s.scriptFailed || v.getLsbD 1 || v.getLsbD 2 }

/-- The Host's step: the first access of the script. With none left it does nothing. -/
def hostStep (s : State) : Result :=
  match s.script with
  | [] => .next s
  | op :: rest => State.hostAccess { s with script := rest } op

end Sys2Proof.Machine
end

