-- ==== Sys2Proof/Machine/Step.lean ====
section
/-! DEFINITION. One step of MTPZ-CE: one host access or one whole command (spec/20_memory.md R69,
R73). -/

namespace Sys2Proof.Machine

/-- One step. A machine that waits for a CMD write and has no host access to take stays as it is
(spec/70_reset_and_hazards.md R322). -/
def step (s : State) : Host.Outcome State Fault Refusal :=
  match s.mover with
  | none => .next s
  | some .host => hostStep s.popTurn
  | some .engine => engineStep s.popTurn

/-- `s` with the command word `w` accepted and the Engine to move (log 1). -/
def State.withFetchWord (s : State) (nbits w : Nat) : State :=
  s.placeCommand (BitVec.ofNat 32 (w % 2 ^ nbits))

end Sys2Proof.Machine
end

