-- ==== Sys2Proof/Machine/Script.lean ====
section
/-! DEFINITION. The host command script (spec/30_encoding.md R98, R99): its statements and the host
accesses each stands for. A script is placed in a state's `script` field. -/

namespace Sys2Proof.Machine

/-- The register names of spec/10_state.md R21. -/
inductive Register where
  /-- ID. -/
  | id
  /-- CTRL. -/
  | ctrl
  /-- STATUS. -/
  | status
  /-- CMD. -/
  | cmd
  /-- ARG0. -/
  | arg0
  /-- ARG1. -/
  | arg1
  /-- ARG2. -/
  | arg2
  /-- ARG3. -/
  | arg3
  /-- ARG4. -/
  | arg4
  /-- RESULT. -/
  | result
  /-- TSTATUS. -/
  | tstatus
  /-- HS_STATUS. -/
  | hsStatus
  /-- HS_W0. -/
  | hsW0
  /-- HS_W1. -/
  | hsW1
  /-- HS_W2. -/
  | hsW2
  /-- HS_W3. -/
  | hsW3
deriving DecidableEq, Repr

/-- The window offset of a register (spec/10_state.md R21). -/
def Register.offset : Register → Nat
  | .id => 0x000
  | .ctrl => 0x004
  | .status => 0x008
  | .cmd => 0x00C
  | .arg0 => 0x010
  | .arg1 => 0x014
  | .arg2 => 0x018
  | .arg3 => 0x01C
  | .arg4 => 0x020
  | .result => 0x024
  | .tstatus => 0x028
  | .hsStatus => 0x02C
  | .hsW0 => 0x030
  | .hsW1 => 0x034
  | .hsW2 => 0x038
  | .hsW3 => 0x03C

/-- The statements of a script (spec/30_encoding.md R98) and its pseudo-statements (R99). The suffixes
`.s` and `.z` are the fields of the command, which has them only where R98 admits them. -/
inductive Statement where
  /-- `wr REG, v`. -/
  | wr (r : Register) (v : Word)
  /-- `rd REG`. -/
  | rd (r : Register)
  /-- `buf k: b0 b1 ...`. -/
  | buf (k : Nat) (bs : Bytes)
  /-- `cmd MNEMONIC[.s][.z]`. -/
  | cmd (i : Instr)
  /-- `wait`. -/
  | wait
  /-- `exec MNEMONIC[.s][.z] a0=v0, ...`, any subset of the arguments. -/
  | exec (i : Instr) (a0 a1 a2 a3 a4 : Option Word)
  /-- `digest src, len, dst`. -/
  | digest (src len dst : Word)
  /-- `setkey key, len`. -/
  | setkey (key len : Word)
  /-- `check`. -/
  | check
deriving DecidableEq, Repr

/-- A 32-bit host store to a register (spec/30_encoding.md R98). -/
def storeRegister (r : Register) (v : Word) : HostOp := .store 4 (.window r.offset) v

/-- The store an `aN=` item stands for (spec/30_encoding.md R99). -/
def argItem (r : Register) : Option Word → List HostOp
  | none => []
  | some v => [storeRegister r v]

/-- The expansion of `exec` (spec/30_encoding.md R99): the argument stores in the order a0 to a4, the
CMD store, the poll. -/
def execOps (i : Instr) (a0 a1 a2 a3 a4 : Option Word) : List HostOp :=
  argItem .arg0 a0 ++ argItem .arg1 a1 ++ argItem .arg2 a2 ++ argItem .arg3 a3 ++ argItem .arg4 a4 ++
    [storeRegister .cmd (encode i), .wait]

/-- The 8-bit stores of `buf` (spec/30_encoding.md R98). -/
def bufOps (k : Nat) : Bytes → List HostOp
  | [] => []
  | b :: bs => .store 1 (.window (Config.bufWindow + k)) (b.setWidth 32) :: bufOps (k + 1) bs

/-- The host accesses of a statement (spec/30_encoding.md R98, R99). -/
def Statement.ops : Statement → List HostOp
  | .wr r v => [storeRegister r v]
  | .rd r => [.load 4 (.window r.offset)]
  | .buf k bs => bufOps k bs
  | .cmd i => [storeRegister .cmd (encode i)]
  | .wait => [.wait]
  | .exec i a0 a1 a2 a3 a4 => execOps i a0 a1 a2 a3 a4
  | .digest src len dst =>
    execOps .hashReset none none none none none ++
      execOps .hashUpdate (some src) (some len) none none none ++
      execOps .hashFinal none none (some dst) none none
  | .setkey key len => execOps .aesKeysched (some key) (some len) none none none
  | .check => [.check]

/-- The state with a script placed (log 1). -/
def State.withScript (s : State) (p : List Statement) : State :=
  { s with script := p.flatMap Statement.ops }

end Sys2Proof.Machine
end

