-- ==== Sys2Proof/Safety.lean ====
section
/-! DEFINITION. What claims about MTPZ-CE are said with: the invariant of the machine, the end of a
run, the tables of spec/60_exceptions.md R281 and spec/43_handshake.md R212, which registers and which
state a command may touch, and what a store leaves in BUF. Nothing here is used by a step. -/

namespace Sys2Proof.Machine

/-! ## The invariant -/

/-- HASH is sound: BLK has 64 bytes and CNT counts whole bytes (spec/10_state.md R32). -/
structure HashState.Sound (h : HashState) : Prop where
  /-- BLK has its 64 bytes. -/
  blk_length : h.blk.length = 64
  /-- CNT counts bits, eight a byte (spec/40_hash.md R113). -/
  cnt_bytes : h.cnt.toNat % 8 = 0

/-- The key lengths of spec/41_cipher.md R153. -/
def keyLength (n : Nat) : Prop := n = 16 ∨ n = 24 ∨ n = 32

/-- SCHED is what AES_KEYSCHED formed from some key, or what reset leaves (spec/10_state.md R31). -/
def Sched.Sound (c : Sched) : Prop :=
  if c.valid then ∃ key, keyLength key.length ∧ c.keys = mksched key else c = Sched.initial

/-- The sizes of loaded key material (spec/10_state.md R33, spec/44_keymaterial.md R261). -/
structure KeyMaterial.Loaded (km : KeyMaterial) : Prop where
  /-- ENCKEY has 16 bytes. -/
  encKey_length : km.encKey.length = 16
  /-- E has at most 128 bytes. -/
  e_lt : km.e < 256 ^ 128
  /-- N is at least 2 (spec/42_rsa.md R190). -/
  n_ge : 2 ≤ km.n
  /-- N has at most 128 bytes. -/
  n_lt : km.n < 256 ^ 128
  /-- D has at most 128 bytes. -/
  d_lt : km.d < 256 ^ 128
  /-- CERT has CERTLEN bytes. -/
  cert_length : km.cert.length = km.certLen
  /-- CERTLEN is at most 0x275. -/
  certLen_le : km.certLen ≤ Config.certBytes

/-- KM is loaded key material, or all zero (spec/10_state.md R42, spec/44_keymaterial.md R262). -/
def KeyMaterial.Sound (km : KeyMaterial) : Prop :=
  if km.valid then km.Loaded else km = KeyMaterial.initial

/-- SESSION in each handshake state: zero before a nonce is drawn and after a failure; the nonce from
CertSent on; the session key, the MAC-hash and the counter taken from it from ResponseValidated on
(spec/43_handshake.md R213, R220, R221, R235). -/
def Session.Sound (p : Params) (st : HsState) (x : Session) : Prop :=
  match st with
  | .idle | .reset | .failed => x = Session.zero
  | .certSent => x.nonce.length = 16 ∧ x = { Session.zero with nonce := x.nonce }
  | .responseValidated | .confirmed | .sessionOpen =>
    x.nonce.length = 16 ∧ x.skey.length = 16 ∧ x.macHash.length = 20 ∧
      x.macCount = macCountOf p x.macHash

/-- The handshake states that only a loaded KM reaches (spec/43_handshake.md R212, R220). -/
def HsState.needsKm : HsState → Bool
  | .idle | .failed => false
  | .reset | .certSent | .responseValidated | .confirmed | .sessionOpen => true

/-- The handshake states after a successful HS_CERT (spec/43_handshake.md R212, R221). -/
def HsState.pastCert : HsState → Bool
  | .idle | .reset | .failed => false
  | .certSent | .responseValidated | .confirmed | .sessionOpen => true

/-- What is true of every state of MTPZ-CE between two steps. -/
structure State.Inv (s : State) : Prop where
  /-- BUF is canonical and inside its 4096 bytes. -/
  buf_wf : s.buf.wf
  /-- HASH is sound. -/
  hash_sound : s.hash.Sound
  /-- SCHED is sound. -/
  sched_sound : s.sched.Sound
  /-- KM is sound. -/
  km_sound : s.km.Sound
  /-- SESSION fits HS_STATE. -/
  session_sound : s.session.Sound s.params s.hsState
  /-- ERRCODE is 0 exactly when ERR is 0 (spec/10_state.md R24). -/
  err_iff : s.err = true ↔ s.errCode ≠ .ok
  /-- ABORTED never stands in ERRCODE (spec/60_exceptions.md R281). -/
  errCode_ne_aborted : s.errCode ≠ .aborted
  /-- While a command executes ERR, ERRCODE and RESULT are clear (spec/10_state.md R24, R27). -/
  busy_clear : s.busy = true → s.err = false ∧ s.result = 0
  /-- RESULT counts BUF bytes (spec/10_state.md R27). -/
  result_le : s.result.toNat ≤ Config.bufSize
  /-- HS_FAIL is not 0 exactly in Failed (spec/10_state.md R29). -/
  hsFail_iff : s.hsFail ≠ .ok ↔ s.hsState = .failed
  /-- HS_W0 to HS_W3 are 0 but in SessionOpen (spec/10_state.md R30). -/
  enable_zero : s.hsState ≠ .sessionOpen → s.enable = EnableWords.zero
  /-- A handshake is under way only with key material loaded. -/
  km_valid : s.hsState.needsKm = true → s.km.valid = true
  /-- A certificate message was built only from a certificate of 0x275 bytes. -/
  cert_full : s.hsState.pastCert = true → s.km.certLen = Config.certBytes

/-! ## Runs -/

/-- The end of a run (spec/70_reset_and_hazards.md R333). -/
def State.runEnded (s : State) : Prop := s.script = [] ∧ s.busy = false

end Sys2Proof.Machine

namespace Sys2Proof

open Machine

/-! ## Tables of the spec -/

/-- Whether a command is of the HandshakeOrchestrator (spec/30_encoding.md R94). -/
def Instr.isHs : Instr → Bool
  | .hsStart | .hsCert | .hsResponse | .hsConfirm | .hsOpen | .hsAbort => true
  | .nop | .hashReset | .hashUpdate | .hashFinal | .hashExpand | .aesKeysched | .aesEncBlock _
  | .aesDecBlock _ | .aesChainEnc _ | .aesChainDec _ | .aesMac | .rsaPriv | .rsaPub | .kmLoad => false

/-- The commands that may write HASH (spec/10_state.md R32). -/
def Instr.writesHash : Instr → Bool
  | .hashReset | .hashUpdate | .hashFinal => true
  | .nop | .hashExpand | .aesKeysched | .aesEncBlock _ | .aesDecBlock _ | .aesChainEnc _
  | .aesChainDec _ | .aesMac | .rsaPriv | .rsaPub | .kmLoad | .hsStart | .hsCert | .hsResponse
  | .hsConfirm | .hsOpen | .hsAbort => false

/-- The checks a command makes before it reads BUF, in their order, each with the code it decides
(spec/60_exceptions.md R282, R284). The check of the word itself (ILLEGAL_CMD) comes before them. -/
def Instr.checks (i : Instr) (s : State) : List (Bool × ErrCode) :=
  match i with
  | .nop | .hashReset | .hsAbort => []
  | .hashUpdate => [(inbuf s.arg0 s.arg1, .badArg)]
  | .hashFinal => [(inbuf s.arg2 20, .badArg)]
  | .hashExpand => [(inbuf s.arg0 s.arg1, .badArg), (inbuf s.arg2 s.arg3, .badArg)]
  | .aesKeysched =>
    [(s.arg1 ∈ [16, 24, 32], .badArg), (inbuf s.arg0 s.arg1, .badArg)]
  | .aesEncBlock seeded | .aesDecBlock seeded =>
    [(s.sched.valid, .noSched), (inbuf s.arg0 16, .badArg), (inbuf s.arg2 16, .badArg),
      (!seeded || inbuf s.arg4 16, .badArg)]
  | .aesChainEnc zeroIv | .aesChainDec zeroIv =>
    [(s.sched.valid, .noSched), (inbuf s.arg0 s.arg1, .badArg), (inbuf s.arg2 s.arg1, .badArg),
      (zeroIv || inbuf s.arg4 16, .badArg)]
  | .aesMac =>
    [(s.sched.valid, .noSched), (s.arg1 ≤ 16, .badArg), (inbuf s.arg0 s.arg1, .badArg),
      (inbuf s.arg2 16, .badArg)]
  | .rsaPriv | .rsaPub =>
    [(s.km.valid, .noKeymat), (s.arg1 ≤ 128, .badArg), (1 ≤ s.arg3 ∧ s.arg3 ≤ 128, .badArg),
      (inbuf s.arg0 s.arg1, .badArg), (inbuf s.arg2 s.arg3, .badArg)]
  | .kmLoad => [(!s.km.valid, .kmLocked), (inbuf s.arg0 1037, .badArg)]
  | .hsStart => [(s.km.valid, .noKeymat)]
  | .hsCert =>
    [(s.hsState = .reset, .sequence), (inbuf s.arg2 785, .badArg), (s.ltstatus = 0, .transport),
      (s.km.certLen = 0x275, .kmInvalid)]
  | .hsResponse =>
    [(s.hsState = .certSent, .sequence), (inbuf s.arg0 s.arg1, .badArg),
      (s.ltstatus = 0, .transport)]
  | .hsConfirm => [(s.hsState = .responseValidated, .sequence), (inbuf s.arg2 20, .badArg)]
  | .hsOpen => [(s.hsState = .confirmed, .sequence), (s.ltstatus = 0, .transport)]

/-- The code of the first check that fails (spec/60_exceptions.md R284). -/
def firstFailed (checks : List (Bool × ErrCode)) : Option ErrCode :=
  (checks.find? (fun c => !c.1)).map (·.2)

/-- The errors a command may still raise on the data it reads, once its checks have passed
(spec/60_exceptions.md R282). -/
def Instr.dataErrors : Instr → List ErrCode
  | .rsaPriv | .rsaPub | .hsCert => [.crypto]
  | .kmLoad => [.kmInvalid]
  | .hsResponse => [.framing, .crypto, .auth]
  | .nop | .hashReset | .hashUpdate | .hashFinal | .hashExpand | .aesKeysched | .aesEncBlock _
  | .aesDecBlock _ | .aesChainEnc _ | .aesChainDec _ | .aesMac | .hsStart | .hsConfirm | .hsOpen
  | .hsAbort => []

/-- The state a command leaves that ends with the error `code`: `raise Error(code)`
(spec/60_exceptions.md R283) and, for a command of the HandshakeOrchestrator, the entry into Failed
(spec/43_handshake.md R213). -/
def Instr.failure (i : Instr) (s : State) (code : ErrCode) : State :=
  if i.isHs then
    { s with err := true, errCode := code, result := 0, busy := false, hsState := .failed,
             hsFail := code, enable := { w0 := 0, w1 := 0, w2 := 0, w3 := 0 },
             session := { nonce := List.replicate 16 0, skey := List.replicate 16 0,
                          macHash := List.replicate 20 0, macCount := 0 } }
  else { s with err := true, errCode := code, result := 0, busy := false }

/-- The BUF range a command writes when it succeeds: its offset, as the command's meaning takes it, and
its length (spec/30_encoding.md R94). A command that writes nothing has the range of length 0. -/
def Instr.output (i : Instr) (s : State) : Nat × Nat :=
  match i with
  | .nop | .hashReset | .hashUpdate | .aesKeysched | .kmLoad | .hsStart | .hsResponse | .hsOpen
  | .hsAbort => (0, 0)
  | .hashFinal | .hsConfirm => (s.arg2, 20)
  | .hashExpand | .rsaPriv | .rsaPub => (s.arg2, s.arg3)
  | .aesEncBlock _ | .aesDecBlock _ | .aesMac => (s.arg2, 16)
  | .aesChainEnc _ | .aesChainDec _ => (s.arg2, s.arg1)
  | .hsCert => (s.arg2, 785)

/-- The BUF ranges whose bytes a command reads once its checks have passed, each an offset and a length
(spec/30_encoding.md R94, spec/20_memory.md R72). The optional operand at ARG4 is read with S = 1 or with
Z = 0 only (spec/41_cipher.md R160, R164). -/
def Instr.inputs (i : Instr) (s : State) : List (Nat × Nat) :=
  match i with
  | .nop | .hashReset | .hashFinal | .hsStart | .hsCert | .hsConfirm | .hsOpen | .hsAbort => []
  | .hashUpdate | .hashExpand | .aesKeysched | .aesMac | .rsaPriv | .rsaPub | .hsResponse =>
    [(s.arg0, s.arg1)]
  | .aesEncBlock seeded | .aesDecBlock seeded =>
    (s.arg0, 16) :: if seeded then [(s.arg4, 16)] else []
  | .aesChainEnc zeroIv | .aesChainDec zeroIv =>
    (s.arg0, s.arg1) :: if zeroIv then [] else [(s.arg4, 16)]
  | .kmLoad => [(s.arg0, 1037)]

/-- The HS_STATE a command requires; `none` is `any` (spec/43_handshake.md R212). -/
def Instr.requiredHs : Instr → Option HsState
  | .hsCert => some .reset
  | .hsResponse => some .certSent
  | .hsConfirm => some .responseValidated
  | .hsOpen => some .confirmed
  | .hsStart | .hsAbort => none
  | .nop | .hashReset | .hashUpdate | .hashFinal | .hashExpand | .aesKeysched | .aesEncBlock _
  | .aesDecBlock _ | .aesChainEnc _ | .aesChainDec _ | .aesMac | .rsaPriv | .rsaPub | .kmLoad => none

/-- The HS_STATE after a command that succeeds from HS_STATE `st` (spec/43_handshake.md R212). -/
def Instr.successHs (st : HsState) : Instr → HsState
  | .hsStart => .reset
  | .hsCert => .certSent
  | .hsResponse => .responseValidated
  | .hsConfirm => .confirmed
  | .hsOpen => .sessionOpen
  | .hsAbort => .failed
  | .nop | .hashReset | .hashUpdate | .hashFinal | .hashExpand | .aesKeysched | .aesEncBlock _
  | .aesDecBlock _ | .aesChainEnc _ | .aesChainDec _ | .aesMac | .rsaPriv | .rsaPub | .kmLoad => st

/-- `ARG[k]` of five arguments. -/
def Machine.Args.at (a : Args) (k : Fin 5) : Word :=
  match k with
  | 0 => a.arg0
  | 1 => a.arg1
  | 2 => a.arg2
  | 3 => a.arg3
  | 4 => a.arg4

/-- Whether a command reads `ARG[k]` (spec/30_encoding.md R94, R97). -/
def Instr.readsArg (i : Instr) (k : Fin 5) : Bool :=
  match i with
  | .nop | .hashReset | .hsStart | .hsOpen | .hsAbort => false
  | .hashUpdate | .aesKeysched | .hsResponse => k == 0 || k == 1
  | .hashFinal | .hsCert | .hsConfirm => k == 2
  | .hashExpand | .rsaPriv | .rsaPub => k == 0 || k == 1 || k == 2 || k == 3
  | .aesEncBlock seeded | .aesDecBlock seeded => k == 0 || k == 2 || (seeded && k == 4)
  | .aesChainEnc zeroIv | .aesChainDec zeroIv => k == 0 || k == 1 || k == 2 || (!zeroIv && k == 4)
  | .aesMac => k == 0 || k == 1 || k == 2
  | .kmLoad => k == 0

/-- Two sets of latched arguments agree where a command reads them. -/
def Instr.SameArgs (i : Instr) (a b : Args) : Prop := ∀ k, i.readsArg k = true → a.at k = b.at k

end Sys2Proof

namespace Sys2Proof.Machine

/-! ## What the Host sees, and what a store leaves -/

/-- What host accesses can reach (spec/10_state.md R20 to R30, spec/20_memory.md R62), with the model's
own fields that a host access reads. HASH, the round keys, the contents of KM, SESSION and the latched
command are not in it (spec/10_state.md R31 to R35). -/
structure HostView where
  /-- STATUS.BUSY. -/
  busy : Bool
  /-- STATUS. -/
  status : Word
  /-- ARG0 to ARG4. -/
  args : Args
  /-- RESULT. -/
  result : Word
  /-- TSTATUS. -/
  tstatus : Word
  /-- HS_STATUS. -/
  hsStatus : Word
  /-- HS_W0 to HS_W3. -/
  enable : EnableWords
  /-- BUF. -/
  buf : Memory
  /-- The parameters. -/
  params : Params
  /-- How many bytes have been drawn. -/
  draws : Nat
  /-- The next draws. -/
  randomInput : Bytes
  /-- The accesses still to be made. -/
  script : List HostOp
  /-- Who moves next. -/
  turns : List Agent
  /-- What the last load returned. -/
  hostRead : Word
  /-- Whether a check failed. -/
  scriptFailed : Bool
deriving DecidableEq, Repr

/-- What host accesses of a state can reach. -/
def State.hostView (s : State) : HostView :=
  { busy := s.busy, status := s.status, args := s.args, result := s.result, tstatus := s.tstatus,
    hsStatus := s.hsStatus, enable := s.enable, buf := s.buf, params := s.params, draws := s.draws,
    randomInput := s.randomInput, script := s.script, turns := s.turns, hostRead := s.hostRead,
    scriptFailed := s.scriptFailed }

/-- From memory `m` to `m'` exactly the bytes `bs` at offset `a` were stored: they read back, and every
other byte reads as before. -/
def Memory.Stored (m m' : Memory) (a : Nat) (bs : Bytes) : Prop :=
  (∀ j (h : j < bs.length), m'.read (a + j) = some bs[j]) ∧
    ∀ x, x < a ∨ a + bs.length ≤ x → m'.read x = m.read x

/-- The bytes of memory `m` at offset `a` hold the values `bs`. -/
def Memory.Holds (m : Memory) (a : Nat) (bs : Bytes) : Prop :=
  ∀ j (h : j < bs.length), m.read (a + j) = some bs[j]

/-- An outcome with its next state changed by `f`. -/
def mapNext (f : State → State) : Result → Result
  | .next t => .next (f t)
  | .fault r => .fault r
  | .refused r => .refused r

/-- Two outcomes that the Host cannot tell apart. -/
def sameView : Result → Result → Prop
  | .next t, .next u => t.hostView = u.hostView
  | .fault f, .fault g => f = g
  | .refused r, .refused q => r = q
  | .next _, .fault _ | .next _, .refused _ | .fault _, .next _ | .fault _, .refused _
  | .refused _, .next _ | .refused _, .fault _ => False

/-- A write of the soft-reset bit to CTRL (spec/10_state.md R23). -/
def HostOp.resets (p : Params) : HostOp → Prop
  | .store _ addr v => addr.offset p = some 0x004 ∧ v.getLsbD 0 = true
  | .load _ _ | .wait | .check => False

/-! ## The functions of the units, said a second way -/

/-- The value of the RSA transform of the integer `x`: `x^ex mod n`, and 0 for the integer 0 whatever the
exponent (spec/00_scope.md R12, spec/42_rsa.md R191, R192, log 19). -/
def rsaValue (x ex n : Nat) : Nat := if x = 0 then 0 else x ^ ex % n

/-- A whole message with its padding: the byte 0x80, the zero bytes up to the length field and the
length in bits (spec/40_hash.md R114). -/
def paddedMessage (m : Bytes) : Bytes :=
  m ++ [0x80] ++ zeros ((119 - m.length % 64) % 64) ++ be64 (BitVec.ofNat 64 (8 * m.length))

/-- The Merkle-Damgard digest of a whole message, block by block over its padding
(spec/40_hash.md R112, R114). -/
def merkleDamgard (m : Bytes) : Bytes :=
  ((List.range ((paddedMessage m).length / 64)).foldl
    (fun h j => compress h (slice (paddedMessage m) (64 * j) (64 * j + 64))) HashWords.initial).bytes

/-- Chunk `j` of a byte string, zero-padded to 16 bytes (spec/41_cipher.md R162). -/
def chunkAt (p : Bytes) (j : Nat) : Bytes :=
  slice p (16 * j) (16 * j + 16) ++ zeros (16 - (slice p (16 * j) (16 * j + 16)).length)

/-- Ciphertext block `j` of the chained encryption: the chunk XORed with the block before it, or with
the initial feedback, encrypted (spec/41_cipher.md R162). -/
def cipherBlock (k : RoundKeys) (p f0 : Bytes) : Nat → Bytes
  | 0 => encblk k (xorBytes (chunkAt p 0) f0)
  | j + 1 => encblk k (xorBytes (chunkAt p (j + 1)) (cipherBlock k p f0 j))

/-- Plaintext block `j` of the chained decryption: the chunk decrypted and XORed with the chunk before
it, or with the initial feedback (spec/41_cipher.md R163). -/
def plainBlock (k : RoundKeys) (c f0 : Bytes) : Nat → Bytes
  | 0 => xorBytes (decblk k (chunkAt c 0)) f0
  | j + 1 => xorBytes (decblk k (chunkAt c (j + 1))) (chunkAt c j)

/-- `len` bytes of a sequence of 16-byte blocks. -/
def takeBlocks (len : Nat) (block : Nat → Bytes) : Bytes :=
  ((List.range ((len + 15) / 16)).flatMap block).take len

/-- A response is framed as the wire format says (spec/43_handshake.md R230). -/
def WellFramed (r : Bytes) : Prop :=
  r.length = 968 ∧ byteAt r 0 = 0x02 ∧ byteAt r 1 = 0x02 ∧ byteAt r 3 = 0x80 ∧
    byteAt r 134 = 0x03 ∧ byteAt r 135 = 0x40

/-- The payload of a response as its fields lay it out (spec/43_handshake.md R233). -/
def payloadOf (skip0 skip1 skip2 : Byte) (cert echo rand sig mh tail : Bytes) : Bytes :=
  [skip0] ++ beBytes cert.length 4 ++ cert ++ beBytes echo.length 2 ++ echo ++
    beBytes rand.length 2 ++ rand ++ [skip1] ++ beBytes sig.length 2 ++ sig ++ [skip2] ++
    beBytes mh.length 2 ++ mh ++ tail

end Sys2Proof.Machine
end

