-- ==== Sys2Proof/Certificates/Slice0/Obligations.lean ====
section
/-! DEFINITION. The statements for the provers, in the order of OBLIGATIONS.json. -/

section Statements

open Sys2Proof Sys2Proof.Machine

/-! ## The command word -/

/-- spec/30_encoding.md R90, R95: every word decodes to the command whose word it is, and to no other.
Both directions: a command's own word decodes to it, and no other word does. -/
def Obligations.DecodeInvertsEncode : Prop :=
  ∀ (w : Word) (i : Instr), decode w = .ok i ↔ w = encode i

/-- spec/30_encoding.md R93: which words are illegal; an illegal word is accepted like any other and
completes with ILLEGAL_CMD, changing nothing but STATUS and RESULT. -/
def Obligations.IllegalWordsCompleteWithIllegalCmd : Prop :=
  ∀ (s : State) (w : Word),
    ((∃ e, decode w = .error e) ↔
      w.toNat % 256 ∉ [0x00, 0x01, 0x02, 0x03, 0x04, 0x10, 0x11, 0x12, 0x13, 0x14, 0x15, 0x20, 0x21,
        0x30, 0x40, 0x41, 0x42, 0x43, 0x44, 0x45] ∨
      (∃ k, 10 ≤ k ∧ k < 32 ∧ w.getLsbD k = true) ∨
      (w.getLsbD 8 = true ∧ w.toNat % 256 ≠ 0x11 ∧ w.toNat % 256 ≠ 0x12) ∨
      (w.getLsbD 9 = true ∧ w.toNat % 256 ≠ 0x13 ∧ w.toNat % 256 ≠ 0x14)) ∧
    (s.busy = false →
      s.hostStore 4 (.window 0x00C) w =
        .next { s with curCmd := w, larg := s.args, ltstatus := s.tstatus, err := false,
                       errCode := .ok, drop := false, result := 0, busy := true }) ∧
    ((∃ e, decode w = .error e) → s.curCmd = w →
      engineStep s = .next { s with err := true, errCode := .illegalCmd, result := 0, busy := false })

/-- spec/30_encoding.md R94: words written out from the opcode table decode to their commands. -/
def Obligations.WordsOfTheOpcodeTable : Prop :=
  decode 0x00000000 = .ok .nop ∧ decode 0x00000002 = .ok .hashUpdate ∧
  decode 0x00000010 = .ok .aesKeysched ∧ decode 0x00000011 = .ok (.aesEncBlock false) ∧
  decode 0x00000112 = .ok (.aesDecBlock true) ∧ decode 0x00000013 = .ok (.aesChainEnc false) ∧
  decode 0x00000214 = .ok (.aesChainDec true) ∧ decode 0x00000021 = .ok .rsaPub ∧
  decode 0x00000030 = .ok .kmLoad ∧ decode 0x00000042 = .ok .hsResponse

/-! ## Steps -/

/-- spec/10_state.md R40, spec/30_encoding.md R93: the Engine's one step runs the command that CUR_CMD
decodes to, and on an illegal word it completes with ILLEGAL_CMD and no other effect. The Engine moves
when the Host has no access to make or the choice of who moves is not the Host's; what the step adds is
that one entry of that choice is used up (log 2). -/
def Obligations.StepRunsTheDecodedCommand : Prop :=
  ∀ (s : State), s.busy = true → (s.script = [] ∨ s.turns.head? ≠ some .host) →
    (∀ i, decode s.curCmd = .ok i → step s = exec i { s with turns := s.turns.tail }) ∧
    ((∃ e, decode s.curCmd = .error e) →
      step s = .next { s with turns := s.turns.tail, err := true, errCode := .illegalCmd, result := 0,
                              busy := false })

/-- spec/10_state.md R40, spec/70_reset_and_hazards.md R322: while no command is in flight only the
Host moves, and with no access to make the machine stays as it is; while one is in flight the Host
moves when the choice is its own (log 2). Each host step makes the first access of the list. -/
def Obligations.StepMakesTheNextHostAccess : Prop :=
  ∀ (s : State),
    (∀ op rest, s.busy = false → s.script = op :: rest →
      step s = State.hostAccess { s with script := rest } op) ∧
    (s.busy = false → s.script = [] → step s = .next s) ∧
    (∀ op rest, s.busy = true → s.script = op :: rest → s.turns.head? = some .host →
      step s = State.hostAccess { s with script := rest, turns := s.turns.tail } op)

/-- spec/20_memory.md R72, spec/60_exceptions.md R280, R290: no command is refused; a command stops
exactly when its checks pass and a byte of its input operands, which lie in BUF, holds no value, and then
with F_UNINIT; in every other state it completes. That one unwritten byte anywhere in an operand stops
the command is the model's reading (log 13). -/
def Obligations.CommandsStopOnlyOnUnwrittenBytes : Prop :=
  ∀ (i : Instr) (s : State),
    (∀ r, exec i s ≠ .refused r) ∧
    (∀ r j, firstFailed (i.checks s) = none → r ∈ i.inputs s → j < r.2 →
      s.buf.read (r.1 + j) = none → exec i s = .fault .uninit) ∧
    (∀ f, exec i s = .fault f → f = .uninit ∧ firstFailed (i.checks s) = none ∧
      ∃ r ∈ i.inputs s, ∃ j, j < r.2 ∧ r.1 + j < 4096 ∧ s.buf.read (r.1 + j) = none) ∧
    ((∀ r ∈ i.inputs s, ∀ j, j < r.2 → s.buf.read (r.1 + j) ≠ none) → ∃ t, exec i s = .next t)

/-- spec/10_state.md R37, R36, R40: every command, with or without an error, ends with BUSY = 0 and
writes none of DROP, ARG0 to ARG4, TSTATUS, the latched command and the model's own fields, but that
HS_CERT draws bytes. -/
def Obligations.CommandKeepsTheHostsRegisters : Prop :=
  ∀ (i : Instr) (s t : State), exec i s = .next t →
    t.busy = false ∧ t.drop = s.drop ∧ t.args = s.args ∧ t.tstatus = s.tstatus ∧
    t.curCmd = s.curCmd ∧ t.larg = s.larg ∧ t.ltstatus = s.ltstatus ∧ t.params = s.params ∧
    t.script = s.script ∧ t.turns = s.turns ∧ t.hostRead = s.hostRead ∧
    t.scriptFailed = s.scriptFailed ∧
    (i ≠ .hsCert → t.draws = s.draws ∧ t.randomInput = s.randomInput)

/-- spec/70_reset_and_hazards.md R324, spec/30_encoding.md R99: a `wait` ends. From a state with a
command in flight and a `wait` first in the script, whatever the choice of who moves, the poll that
reads BUSY = 0 is made within as many steps as the choice has entries and two more. The bound is the
model's choice, since the choice of who moves is a finite list of the model's own (log 2). That every BUF
byte holds a value rules out the fault F_UNINIT. -/
def Obligations.WaitEnds : Prop :=
  ∀ (s : State) (rest : List HostOp), s.busy = true → s.script = .wait :: rest →
    (∀ a, a < 4096 → s.buf.read a ≠ none) →
    ∃ (k : Nat) (t : State), k ≤ s.turns.length + 2 ∧ Host.Core.run core k s = .next t ∧
      t.busy = false ∧ t.script = rest ∧ t.hostRead = t.status ∧ t.hostRead.getLsbD 0 = false

/-- spec/30_encoding.md R99, spec/10_state.md R40: the statement `exec`, met with no command in flight
and the Engine to move at once, stores the given arguments and the command word and runs the command
on them: one step for each argument given, one for the CMD store, one of the Engine. That the Host's
accesses stand in a list and that no turn is listed, so that the Engine moves before the Host polls, are
the model's own (logs 1 and 2). -/
def Obligations.ExecStatementRunsItsCommand : Prop :=
  ∀ (s : State) (i : Instr) (a0 a1 a2 a3 a4 : Option Word) (rest : List HostOp),
    s.busy = false → s.turns = [] → s.script = (Statement.exec i a0 a1 a2 a3 a4).ops ++ rest →
    Host.Core.run core ([a0, a1, a2, a3, a4].countP Option.isSome + 2) s =
      exec i
        { s with
          args := { arg0 := a0.getD s.args.arg0, arg1 := a1.getD s.args.arg1,
                    arg2 := a2.getD s.args.arg2, arg3 := a3.getD s.args.arg3,
                    arg4 := a4.getD s.args.arg4 }
          larg := { arg0 := a0.getD s.args.arg0, arg1 := a1.getD s.args.arg1,
                    arg2 := a2.getD s.args.arg2, arg3 := a3.getD s.args.arg3,
                    arg4 := a4.getD s.args.arg4 }
          curCmd := encode i, ltstatus := s.tstatus, err := false, errCode := .ok, drop := false
          result := 0, busy := true, script := .wait :: rest }

/-! ## The host window -/

/-- spec/60_exceptions.md R289: a CMD write while BUSY = 1 sets DROP and does nothing else; the next
one that is accepted clears DROP, latches the arguments and TSTATUS and starts the command. -/
def Obligations.CommandWriteAcceptedOrDropped : Prop :=
  ∀ (s : State) (v : Word),
    (s.busy = true → s.hostStore 4 (.window 0x00C) v = .next { s with drop := true }) ∧
    (s.busy = false →
      s.hostStore 4 (.window 0x00C) v =
        .next { s with curCmd := v, larg := s.args, ltstatus := s.tstatus, err := false,
                       errCode := .ok, drop := false, result := 0, busy := true })

/-- spec/10_state.md R23, spec/70_reset_and_hazards.md R320: CTRL reads 0; a write with bit 0 = 0 has
no effect; a write with bit 0 = 1, at any time, gives every piece of state its soft-reset value, keeps
BUF, and leaves no Engine step to take. The pieces that R42 gives no value may hold any. That the model's
own fields (the parameters, the draws, the script, the turns, what the Host has read) are kept is the
model's choice (log 14). -/
def Obligations.ControlWriteResets : Prop :=
  ∀ (s : State) (v : Word),
    s.hostLoad 4 (.window 0x004) = .next { s with hostRead := 0 } ∧
    (v.getLsbD 0 = false → s.hostStore 4 (.window 0x004) v = .next s) ∧
    (v.getLsbD 0 = true →
      ∃ t, s.hostStore 4 (.window 0x004) v = .next t ∧ t.mover ≠ some .engine ∧
        t = { s with
              busy := false, err := false, drop := false, errCode := .ok
              args := { arg0 := 0, arg1 := 0, arg2 := 0, arg3 := 0, arg4 := 0 }
              result := 0, tstatus := 0, enable := { w0 := 0, w1 := 0, w2 := 0, w3 := 0 }
              hash := { h := { h0 := 0x67452301, h1 := 0xEFCDAB89, h2 := 0x98BADCFE,
                               h3 := 0x10325476, h4 := 0xC3D2E1F0 }
                        blk := t.hash.blk, cnt := 0 }
              sched := { valid := false
                         keys := { nr := 0, ek := t.sched.keys.ek, dk := t.sched.keys.dk } }
              km := { valid := false, encKey := List.replicate 16 0, e := 0, n := 0, d := 0,
                      cert := [], certLen := 0 }
              hsState := .idle, hsFail := .ok
              session := { nonce := List.replicate 16 0, skey := List.replicate 16 0,
                           macHash := List.replicate 20 0, macCount := 0 }
              curCmd := t.curCmd, larg := t.larg, ltstatus := t.ltstatus })

/-- spec/10_state.md R22: ID reads 0x4D54505A in every state, also after a reset, and ignores writes. -/
def Obligations.IdentificationRegister : Prop :=
  ∀ (s : State) (v : Word),
    s.hostLoad 4 (.window 0x000) = .next { s with hostRead := 0x4D54505A } ∧
    s.hostStore 4 (.window 0x000) v = .next s

/-- spec/10_state.md R26, R28: a store to ARG0 to ARG4 or to TSTATUS, at any time, changes that register
alone and reads back. -/
def Obligations.ArgumentRegistersReadBack : Prop :=
  ∀ (s : State) (v : Word),
    (∀ k : Fin 5, ∃ t, s.hostStore 4 (.window (0x010 + 4 * k.val)) v = .next t ∧
      t = { s with args := t.args } ∧ (∀ j, t.args.at j = if j = k then v else s.args.at j) ∧
      t.hostLoad 4 (.window (0x010 + 4 * k.val)) = .next { t with hostRead := v }) ∧
    s.hostStore 4 (.window 0x028) v = .next { s with tstatus := v } ∧
    State.hostLoad { s with tstatus := v } 4 (.window 0x028) =
      .next { s with tstatus := v, hostRead := v }

/-- spec/20_memory.md R70: the reserved offsets 0x0040 to 0x0FFF read 0 and ignore writes. -/
def Obligations.ReservedOffsetsReadZero : Prop :=
  ∀ (s : State) (off : Nat) (v : Word), 0x040 ≤ off → off ≤ 0xFFF → off % 4 = 0 →
    s.hostLoad 4 (.window off) = .next { s with hostRead := 0 } ∧
    s.hostStore 4 (.window off) v = .next s

/-- spec/10_state.md R21, R25, R27, R30: the read-only registers ignore writes, CMD reads 0, and RESULT
and HS_W0 to HS_W3 read what they hold. -/
def Obligations.ReadOnlyAndWriteOnlyRegisters : Prop :=
  ∀ (s : State) (v : Word),
    (∀ off, off ∈ [0x008, 0x024, 0x02C, 0x030, 0x034, 0x038, 0x03C] →
      s.hostStore 4 (.window off) v = .next s) ∧
    s.hostLoad 4 (.window 0x00C) = .next { s with hostRead := 0 } ∧
    s.hostLoad 4 (.window 0x024) = .next { s with hostRead := s.result } ∧
    s.hostLoad 4 (.window 0x030) = .next { s with hostRead := s.enable.w0 } ∧
    s.hostLoad 4 (.window 0x034) = .next { s with hostRead := s.enable.w1 } ∧
    s.hostLoad 4 (.window 0x038) = .next { s with hostRead := s.enable.w2 } ∧
    s.hostLoad 4 (.window 0x03C) = .next { s with hostRead := s.enable.w3 }

/-- spec/10_state.md R24, R29, R41, spec/60_exceptions.md R281, spec/43_handshake.md R210: the fields of
STATUS and HS_STATUS and the numbers of the codes and states in them; every reserved bit reads 0. -/
def Obligations.StatusRegisterFields : Prop :=
  ∀ (s : State),
    (∃ v, s.hostLoad 4 (.window 0x008) = .next { s with hostRead := v } ∧
      v.getLsbD 0 = s.busy ∧ v.getLsbD 1 = s.err ∧ v.getLsbD 2 = s.drop ∧
      v.extractLsb' 8 8 = s.errCode.code ∧ v.getLsbD 16 = s.km.valid ∧
      v.getLsbD 17 = s.sched.valid ∧
      (v.extractLsb' 20 4).toNat = (if s.sched.valid then s.sched.keys.nr % 16 else 0) ∧
      ∀ k, 3 ≤ k ∧ k ≤ 7 ∨ 18 ≤ k ∧ k ≤ 19 ∨ 24 ≤ k ∧ k ≤ 31 → v.getLsbD k = false) ∧
    (∃ v, s.hostLoad 4 (.window 0x02C) = .next { s with hostRead := v } ∧
      v.extractLsb' 0 4 = s.hsState.code ∧ v.extractLsb' 8 8 = s.hsFail.code ∧
      ∀ k, 4 ≤ k ∧ k ≤ 7 ∨ 16 ≤ k ∧ k ≤ 31 → v.getLsbD k = false) ∧
    [HsState.idle, .reset, .certSent, .responseValidated, .confirmed, .sessionOpen, .failed].map
      HsState.code = [0, 1, 2, 3, 4, 5, 6] ∧
    [ErrCode.ok, .illegalCmd, .badArg, .noSched, .noKeymat, .kmLocked, .kmInvalid, .crypto,
      .sequence, .transport, .framing, .auth, .aborted].map ErrCode.code =
      [0, 1, 2, 3, 4, 5, 6, 7, 8, 9, 10, 11, 12]

/-- spec/60_exceptions.md R290: the host faults, by what a host access is. A host address names the
byte that its offset from P_BASE names, and P_BASE is a multiple of 4 (log 5). Which fault stands where
two rows of R290 fit, and that an access belongs to the region of its first byte, is the model's choice
(log 12). -/
def Obligations.HostFaults : Prop :=
  ∀ (s : State) (width off : Nat) (v : Word),
    (off < 0x1000 → ¬(width = 4 ∧ off % 4 = 0) →
      s.hostLoad width (.window off) = .fault .width ∧
      s.hostStore width (.window off) v = .fault .width) ∧
    (0x1000 ≤ off → off < 0x2000 → ¬((width = 1 ∨ width = 2 ∨ width = 4) ∧ off % width = 0) →
      s.hostLoad width (.window off) = .fault .bufAcc ∧
      s.hostStore width (.window off) v = .fault .bufAcc) ∧
    (0x1000 ≤ off → off < 0x2000 → (width = 1 ∨ width = 2 ∨ width = 4) → off % width = 0 →
      (s.busy = true → s.hostStore width (.window off) v = .fault .busyStore) ∧
      (s.busy = false → (∃ j, j < width ∧ s.buf.read (off - 0x1000 + j) = none) →
        s.hostLoad width (.window off) = .fault .uninit)) ∧
    (0x2000 ≤ off →
      s.hostLoad width (.window off) = .fault .window ∧
      s.hostStore width (.window off) v = .fault .window) ∧
    (∀ a, a < s.params.base ∨ s.params.base + 0x2000 ≤ a →
      s.hostLoad width (.absolute a) = .fault .window ∧
      s.hostStore width (.absolute a) v = .fault .window) ∧
    (off < 0x2000 →
      s.hostLoad width (.absolute (s.params.base + off)) = s.hostLoad width (.window off) ∧
      s.hostStore width (.absolute (s.params.base + off)) v = s.hostStore width (.window off) v)

/-- spec/20_memory.md R64: host accesses to BUF compose bytes little-endian. A load returns the sum of
the bytes it covers, each times a power of 256; a store leaves the bytes of its value and every other
byte as before; a load after the store returns the value's low bytes. -/
def Obligations.BufAccessIsLittleEndian : Prop :=
  ∀ (s : State) (width k : Nat) (v : Word), (width = 1 ∨ width = 2 ∨ width = 4) →
    k % width = 0 → k < 4096 → s.busy = false →
    (∀ bs : Bytes, bs.length = width → Memory.Holds s.buf k bs →
      s.hostLoad width (.window (0x1000 + k)) =
        .next { s with
                hostRead := BitVec.ofNat 32 (∑ j : Fin bs.length, bs[j].toNat * 256 ^ j.val) }) ∧
    ∃ t, s.hostStore width (.window (0x1000 + k)) v = .next t ∧ t = { s with buf := t.buf } ∧
      Memory.Stored s.buf t.buf k
        ((List.range width).map fun j => BitVec.ofNat 8 (v.toNat / 256 ^ j)) ∧
      t.hostLoad width (.window (0x1000 + k)) =
        .next { t with hostRead := BitVec.ofNat 32 (v.toNat % 256 ^ width) }

/-- spec/20_memory.md R71, spec/70_reset_and_hazards.md R325: a host load of BUF while a command is in
flight is no fault and returns any value: the draws the state lists (log 3), whatever BUF holds; it
changes nothing but what the Host has read and the draws. -/
def Obligations.BusyBufLoadReturnsADraw : Prop :=
  ∀ (s : State) (width k : Nat) (bs rest : Bytes), (width = 1 ∨ width = 2 ∨ width = 4) →
    k % width = 0 → k < 4096 → s.busy = true → bs.length = width → s.randomInput = bs ++ rest →
    s.hostLoad width (.window (0x1000 + k)) =
      .next { s with
              hostRead := BitVec.ofNat 32 (∑ j : Fin bs.length, bs[j].toNat * 256 ^ j.val),
              randomInput := rest, draws := s.draws + width }

/-! ## Reset and the invariant -/

/-- spec/10_state.md R42: the value of every piece of state after power-on reset and after soft reset,
where the rule gives one. BUF holds no value after the first and keeps its bytes over the second. -/
def Obligations.ResetValues : Prop :=
  (∀ r : State, (r = State.reset ∨ ∃ s, r = State.softReset s) →
    (∀ off, off ≤ 0xFFC → off % 4 = 0 →
      r.hostLoad 4 (.window off) =
        .next { r with hostRead := if off = 0 then 0x4D54505A else 0 }) ∧
    r.busy = false ∧ r.err = false ∧ r.drop = false ∧ r.errCode = .ok ∧
    r.hash.h = { h0 := 0x67452301, h1 := 0xEFCDAB89, h2 := 0x98BADCFE, h3 := 0x10325476,
                 h4 := 0xC3D2E1F0 } ∧
    r.hash.cnt = 0 ∧ r.sched.valid = false ∧ r.sched.keys.nr = 0 ∧
    r.km = { valid := false, encKey := List.replicate 16 0, e := 0, n := 0, d := 0, cert := [],
             certLen := 0 } ∧
    r.hsState = .idle ∧ r.hsFail = .ok ∧
    r.session = { nonce := List.replicate 16 0, skey := List.replicate 16 0,
                  macHash := List.replicate 20 0, macCount := 0 }) ∧
  (∀ a, State.reset.buf.read a = none) ∧
  ∀ s : State, s.softReset.buf = s.buf

/-- The invariant of Safety.lean holds of the state after reset. -/
def Obligations.ResetSatisfiesTheInvariant : Prop :=
  State.reset.Inv

/-- Every step keeps the invariant of Safety.lean, from every state that meets it, and no step changes
the parameters: BUF stays canonical, HASH, SCHED and KM stay what commands make of them, SESSION fits
HS_STATE, ERRCODE fits ERR and never is ABORTED, HS_FAIL fits Failed, the enable words are 0 outside
SessionOpen, and a handshake is under way only with key material loaded. That a schedule that is not
loaded holds no round keys is the model's choice (log 7). -/
def Obligations.StepKeepsTheInvariant : Prop :=
  ∀ s t : State, s.Inv → step s = .next t → t.Inv ∧ t.params = s.params

/-! ## What is read and what is written -/

/-- spec/10_state.md R20: no host access reads internal state. Two states that agree on the registers,
BUF and the model's own fields stay so after any host access, and it stops on both or on neither. -/
def Obligations.HostAccessReadsNoInternalState : Prop :=
  ∀ (s u : State) (op : HostOp), s.hostView = u.hostView →
    sameView (s.hostAccess op) (u.hostAccess op)

/-- spec/10_state.md R20, R23, R35, R40: of the Host's accesses, none but the soft reset writes HASH, SCHED, KM, SESSION,
HS_STATE, HS_FAIL or HS_W0 to HS_W3; and none but the soft reset and an accepted CMD store writes the
latched command: CUR_CMD, LARG and LTSTATUS. -/
def Obligations.HostAccessKeepsInternalState : Prop :=
  ∀ (s t : State) (op : HostOp), s.hostAccess op = .next t → ¬op.resets s.params →
    t.hash = s.hash ∧ t.sched = s.sched ∧ t.km = s.km ∧ t.session = s.session ∧
    t.hsState = s.hsState ∧ t.hsFail = s.hsFail ∧ t.enable = s.enable ∧
    (t.curCmd = s.curCmd ∧ t.larg = s.larg ∧ t.ltstatus = s.ltstatus ∨
      s.busy = false ∧ ∃ addr v, op = .store 4 addr v ∧ addr.offset s.params = some 0x00C)

/-- spec/30_encoding.md R97: a command reads the latched arguments of its row and ignores the others. -/
def Obligations.CommandReadsOnlyItsArguments : Prop :=
  ∀ (i : Instr) (s : State) (b : Args), i.SameArgs s.larg b →
    exec i { s with larg := b } = mapNext (fun t => { t with larg := b }) (exec i s)

/-- spec/70_reset_and_hazards.md R327, spec/10_state.md R35: what the Host writes to ARG0 to ARG4 and
TSTATUS while a command executes is not seen by that command, and is latched by the next accepted
one. -/
def Obligations.CommandReadsOnlyLatchedValues : Prop :=
  ∀ (i : Instr) (s : State) (a : Args) (v w : Word),
    exec i { s with args := a, tstatus := v } =
      mapNext (fun t => { t with args := a, tstatus := v }) (exec i s) ∧
    (s.busy = false →
      State.hostStore { s with args := a, tstatus := v } 4 (.window 0x00C) w =
        .next { s with args := a, tstatus := v, curCmd := w, larg := a, ltstatus := v, err := false,
                       errCode := .ok, drop := false, result := 0, busy := true })

/-- spec/10_state.md R28, spec/43_handshake.md R211, spec/44_keymaterial.md R263: the latched transport
status is read only by HS_CERT, HS_RESPONSE and HS_OPEN, and KM.ENCKEY by no command (KM_LOAD
replaces it). -/
def Obligations.ValuesThatCommandsIgnore : Prop :=
  ∀ (i : Instr) (s : State),
    (∀ v : Word, i ≠ .hsCert → i ≠ .hsResponse → i ≠ .hsOpen →
      exec i { s with ltstatus := v } = mapNext (fun t => { t with ltstatus := v }) (exec i s)) ∧
    ∀ key : Bytes,
      mapNext (fun t => { t with km := { t.km with encKey := [] } })
          (exec i { s with km := { s.km with encKey := key } }) =
        mapNext (fun t => { t with km := { t.km with encKey := [] } }) (exec i s)

/-- spec/43_handshake.md R215: a command of the HandshakeOrchestrator neither reads nor writes HASH and
SCHED. -/
def Obligations.HandshakeUsesPrivateInstances : Prop :=
  ∀ (i : Instr) (s : State) (h : HashState) (c : Sched), i.isHs = true →
    exec i { s with hash := h, sched := c } =
      mapNext (fun t => { t with hash := h, sched := c }) (exec i s)

/-- spec/10_state.md R31 to R34: which commands may write HASH, SCHED, KM and SESSION with the handshake
state and the enable words. -/
def Obligations.WritersOfInternalState : Prop :=
  ∀ (i : Instr) (s t : State), exec i s = .next t →
    (i.writesHash = false → t.hash = s.hash) ∧ (i ≠ .aesKeysched → t.sched = s.sched) ∧
    (i ≠ .kmLoad → t.km = s.km) ∧
    (i.isHs = false → t.session = s.session ∧ t.hsState = s.hsState ∧ t.hsFail = s.hsFail ∧
      t.enable = s.enable)

/-- spec/44_keymaterial.md R262: while KM.VALID = 1 no command changes KM, KM_LOAD ends in KM_LOCKED, and
no step changes KM but a soft reset, which sets every field to zero. -/
def Obligations.KeyMaterialIsLocked : Prop :=
  ∀ s : State, s.km.valid = true →
    (∀ i t, exec i s = .next t → t.km = s.km) ∧
    exec .kmLoad s = .next { s with err := true, errCode := .kmLocked, result := 0, busy := false } ∧
    ∀ t, step s = .next t →
      t.km = s.km ∨
        (∃ op rest, s.script = op :: rest ∧ op.resets s.params) ∧
          t.km = { valid := false, encKey := List.replicate 16 0, e := 0, n := 0, d := 0, cert := [],
                   certLen := 0 }

/-- spec/60_exceptions.md R282, R284: the first check of a command that fails decides its error, before
anything is read from BUF; when none fails and BUF holds its operands, only the errors on the data
remain. -/
def Obligations.ChecksDecideInOrder : Prop :=
  ∀ (i : Instr) (s : State),
    (∀ code, firstFailed (i.checks s) = some code → exec i s = .next (i.failure s code)) ∧
    ∀ t, firstFailed (i.checks s) = none → s.err = false → exec i s = .next t → t.err = true →
      t.errCode ∈ i.dataErrors

/-- spec/60_exceptions.md R283, spec/43_handshake.md R213: a command that ends with an error has no effect
but ERR, ERRCODE, RESULT and BUSY and, for a command of the HandshakeOrchestrator, the entry into
Failed; the draws of HS_CERT count as drawn (log 3). ERR is clear while a command executes (R40). -/
def Obligations.FailedCommandHasNoOtherEffect : Prop :=
  ∀ (i : Instr) (s t : State), s.err = false → exec i s = .next t → t.err = true →
    t.errCode ≠ .ok ∧
    t = { i.failure s t.errCode with draws := t.draws, randomInput := t.randomInput }

/-- spec/20_memory.md R65, spec/10_state.md R27: a command changes no BUF byte outside its output range
and, when it ends with an error, none at all; RESULT is the length of the output range, or 0 after an
error. -/
def Obligations.OutputRangeAndResult : Prop :=
  ∀ (i : Instr) (s t : State), s.Inv → s.err = false → exec i s = .next t →
    (∀ x, x < (i.output s).1 ∨ (i.output s).1 + (i.output s).2 ≤ x →
      t.buf.read x = s.buf.read x) ∧
    (t.err = true → t.buf = s.buf ∧ t.result = 0) ∧
    (t.err = false → t.result.toNat = (i.output s).2)

/-! ## Hash commands -/

/-- spec/40_hash.md R111, R113 to R115, R121: for any split of a message into updates after a reset of
any hash instance, whatever its pending block held, the finalised bytes are the Merkle-Damgard digest of
the whole padded message, and so is `digest`. -/
def Obligations.StreamedDigestIsMerkleDamgard : Prop :=
  (∀ (h : HashState) (parts : List Bytes), h.blk.length = 64 →
    hfinalBytes (parts.foldl hupdate (hreset h)) = merkleDamgard parts.flatten) ∧
  ∀ m : Bytes, digest m = merkleDamgard m

/-- spec/44_keymaterial.md R265, spec/40_hash.md R117, R111: NOP changes nothing but that it completes;
HASH_RESET sets the accumulator and the counter and keeps the pending block. -/
def Obligations.NopAndHashResetComplete : Prop :=
  ∀ s : State,
    exec .nop s = .next { s with result := 0, busy := false } ∧
    exec .hashReset s =
      .next { s with
              hash := { s.hash with
                        h := { h0 := 0x67452301, h1 := 0xEFCDAB89, h2 := 0x98BADCFE,
                               h3 := 0x10325476, h4 := 0xC3D2E1F0 }
                        cnt := 0 }
              result := 0, busy := false }

/-- spec/40_hash.md R118, R113: HASH_UPDATE feeds HASH the operand, byte by byte: each byte goes to the
pending place and a full block is compressed at once. -/
def Obligations.HashUpdateFeedsTheOperand : Prop :=
  ∀ (s : State) (data : Bytes), s.arg0 + s.arg1 ≤ 4096 → data.length = s.arg1 →
    Memory.Holds s.buf s.arg0 data →
    exec .hashUpdate s =
      .next { s with
              hash := data.foldl (fun h x =>
                { h := if h.cnt.toNat / 8 % 64 = 63
                       then compress h.h (h.blk.set (h.cnt.toNat / 8 % 64) x) else h.h
                  blk := h.blk.set (h.cnt.toNat / 8 % 64) x
                  cnt := h.cnt + 8 }) s.hash
              result := 0, busy := false }

/-- spec/40_hash.md R119: HASH_FINAL writes the 20 finalised bytes and re-initialises HASH. What the bytes
are is StreamedDigestIsMerkleDamgard. -/
def Obligations.HashFinalWritesTheDigest : Prop :=
  ∀ s : State, s.arg2 + 20 ≤ 4096 →
    (hfinalBytes s.hash).length = 20 ∧
    ∃ t, exec .hashFinal s = .next t ∧ Memory.Stored s.buf t.buf s.arg2 (hfinalBytes s.hash) ∧
      t = { s with
            buf := t.buf
            hash := { s.hash with
                      h := { h0 := 0x67452301, h1 := 0xEFCDAB89, h2 := 0x98BADCFE,
                             h3 := 0x10325476, h4 := 0xC3D2E1F0 }
                      cnt := 0 }
            result := 20, busy := false }

/-- spec/40_hash.md R120, R116: HASH_EXPAND writes outLen bytes; byte j is byte j mod 20 of the digest of
the message followed by the big-endian counter j / 20. HASH is not touched. -/
def Obligations.HashExpandWritesTheKeystream : Prop :=
  ∀ (s : State) (m : Bytes), s.arg0 + s.arg1 ≤ 4096 → s.arg2 + s.arg3 ≤ 4096 → m.length = s.arg1 →
    Memory.Holds s.buf s.arg0 m →
    ∃ t e, exec .hashExpand s = .next t ∧ e.length = s.arg3 ∧
      (∀ j, j < s.arg3 →
        byteAt e j = byteAt (merkleDamgard (m ++ beBytes (j / 20) 4)) (j % 20)) ∧
      Memory.Stored s.buf t.buf s.arg2 e ∧
      t = { s with buf := t.buf, result := s.larg.arg3, busy := false }

/-! ## Cipher commands -/

/-- spec/41_cipher.md R141 to R143: the S-box is the affine map of the inverse in GF(2^8), with 0 for the
inverse of 0, and the inverse S-box undoes it. -/
def Obligations.SubstitutionTables : Prop :=
  (∀ x b : Byte, gmul x b = 1 → sbox x = sboxAffine b) ∧ sbox 0 = sboxAffine 0 ∧
  (∀ x : Byte, x ≠ 0 → ∃ b, gmul x b = 1) ∧ (∀ x : Byte, invSbox (sbox x) = x) ∧
  ∀ x b : Byte, sboxAffine b =
    b ^^^ b.rotateLeft 1 ^^^ b.rotateLeft 2 ^^^ b.rotateLeft 3 ^^^ b.rotateLeft 4 ^^^ 0x63 ∧
    gmul x b = (List.range 8).foldl
      (fun acc j => if b.getLsbD j then acc ^^^ Nat.iterate xtime j x else acc) 0

/-- spec/41_cipher.md R148, R149: the expanded key has 4 (Nr + 1) words; the first Nk are the key's, and
each further one is the word Nk before it XORed with the word before it, which is rotated, substituted
and XORed with a round constant at every Nk-th word and, for a 32-byte key, substituted at i mod 8 = 4. -/
def Obligations.KeyExpansionRecurrence : Prop :=
  (List.range 10).map (fun j => rcon (j + 1)) =
    [0x01, 0x02, 0x04, 0x08, 0x10, 0x20, 0x40, 0x80, 0x1B, 0x36] ∧
  ∀ (key : Bytes) (nk : Nat), (nk = 4 ∨ nk = 6 ∨ nk = 8) → key.length = 4 * nk →
    (expandKey key).length = 4 * (nk + 7) ∧
    (∀ i, i < nk → (expandKey key).getD i [] = slice key (4 * i) (4 * i + 4)) ∧
    ∀ i, nk ≤ i → i < 4 * (nk + 7) →
      let t := (expandKey key).getD (i - 1) []
      (expandKey key).getD i [] =
        xorBytes ((expandKey key).getD (i - nk) [])
          (if i % nk = 0 then
            [sbox (byteAt t 1) ^^^ rcon (i / nk), sbox (byteAt t 2), sbox (byteAt t 3),
              sbox (byteAt t 0)]
          else if nk = 8 ∧ i % 8 = 4 then t.map sbox else t)

/-- spec/41_cipher.md R153, R150: AES_KEYSCHED loads the schedule of the key: NR, the encryption round
keys from the expanded key's words, and the decryption round keys, the inner ones through
InvMixColumns. With any other key length it is BAD_ARG and SCHED stays. -/
def Obligations.AesKeyschedLoadsTheSchedule : Prop :=
  ∀ s : State,
    (∀ key : Bytes, (s.arg1 = 16 ∨ s.arg1 = 24 ∨ s.arg1 = 32) → s.arg0 + s.arg1 ≤ 4096 →
      key.length = s.arg1 → Memory.Holds s.buf s.arg0 key →
      ∃ k : RoundKeys, exec .aesKeysched s =
          .next { s with sched := { valid := true, keys := k }, result := 0, busy := false } ∧
        k.nr = s.arg1 / 4 + 6 ∧ k.ek.length = k.nr + 1 ∧ k.dk.length = k.nr + 1 ∧
        (∀ r, r ≤ k.nr → k.ekAt r =
          (expandKey key).getD (4 * r) [] ++ (expandKey key).getD (4 * r + 1) [] ++
          (expandKey key).getD (4 * r + 2) [] ++ (expandKey key).getD (4 * r + 3) []) ∧
        k.dkAt 0 = k.ekAt 0 ∧ k.dkAt k.nr = k.ekAt k.nr ∧
        ∀ r, 0 < r → r < k.nr → k.dkAt r = invMixColumns (k.ekAt r)) ∧
    (s.arg1 ≠ 16 → s.arg1 ≠ 24 → s.arg1 ≠ 32 →
      exec .aesKeysched s =
        .next { s with err := true, errCode := .badArg, result := 0, busy := false })

/-- spec/41_cipher.md R160, R161: AES_ENC_BLOCK XORs the seed, if the S bit gives one, into the block
before the first round; AES_DEC_BLOCK XORs it into the block after the last. Each writes the 16 bytes
at dst, which may overlap its inputs. -/
def Obligations.SingleBlockCommands : Prop :=
  ∀ (s : State) (b : Bytes) (seed : Option Bytes), s.sched.valid = true →
    s.arg0 + 16 ≤ 4096 → s.arg2 + 16 ≤ 4096 → b.length = 16 → Memory.Holds s.buf s.arg0 b →
    (∀ x ∈ seed, x.length = 16 ∧ s.arg4 + 16 ≤ 4096 ∧ Memory.Holds s.buf s.arg4 x) →
    (∃ t, exec (.aesEncBlock seed.isSome) s = .next t ∧
      Memory.Stored s.buf t.buf s.arg2 (encblk s.sched.keys (seed.elim b (xorBytes b))) ∧
      t = { s with buf := t.buf, result := 16, busy := false }) ∧
    ∃ t, exec (.aesDecBlock seed.isSome) s = .next t ∧
      Memory.Stored s.buf t.buf s.arg2
        (seed.elim (decblk s.sched.keys b) (xorBytes (decblk s.sched.keys b))) ∧
      t = { s with buf := t.buf, result := 16, busy := false }

/-- spec/41_cipher.md R162 to R165: AES_CHAIN_ENC writes the first len bytes of the ciphertext blocks,
each the encryption of its zero-padded chunk XORed with the block before; AES_CHAIN_DEC the first len
bytes of the plaintext blocks. The first feedback is the operand at ARG4, or 16 zero bytes with the
Z bit. The schedule is one that some key gives, as the invariant says of every loaded schedule. -/
def Obligations.ChainedCommands : Prop :=
  ∀ (s : State) (p : Bytes) (iv : Option Bytes), s.sched.valid = true → s.sched.Sound →
    s.arg0 + s.arg1 ≤ 4096 → s.arg2 + s.arg1 ≤ 4096 → p.length = s.arg1 →
    Memory.Holds s.buf s.arg0 p →
    (∀ x ∈ iv, x.length = 16 ∧ s.arg4 + 16 ≤ 4096 ∧ Memory.Holds s.buf s.arg4 x) →
    (∃ t, exec (.aesChainEnc iv.isNone) s = .next t ∧
      Memory.Stored s.buf t.buf s.arg2
        (takeBlocks s.arg1 (cipherBlock s.sched.keys p (iv.getD (zeros 16)))) ∧
      t = { s with buf := t.buf, result := s.larg.arg1, busy := false }) ∧
    ∃ t, exec (.aesChainDec iv.isNone) s = .next t ∧
      Memory.Stored s.buf t.buf s.arg2
        (takeBlocks s.arg1 (plainBlock s.sched.keys p (iv.getD (zeros 16)))) ∧
      t = { s with buf := t.buf, result := s.larg.arg1, busy := false }

/-- spec/41_cipher.md R152, R172: for every key of 16, 24 or 32 bytes, decrypting an encrypted block gives
the block, with a seed too when both calls have it. -/
def Obligations.BlockDecryptionUndoesEncryption : Prop :=
  ∀ (key b : Bytes) (seed : Option Bytes),
    (key.length = 16 ∨ key.length = 24 ∨ key.length = 32) → b.length = 16 →
    (∀ x ∈ seed, x.length = 16) →
    seedInto seed (decblk (mksched key) (encblk (mksched key) (seedInto seed b))) = b

/-- spec/41_cipher.md R172: chained decryption undoes chained encryption on the whole 16-byte chunks of
the message, which is all of it when its length is a multiple of 16. -/
def Obligations.ChainDecryptionUndoesEncryption : Prop :=
  ∀ (key p f0 : Bytes), (key.length = 16 ∨ key.length = 24 ∨ key.length = 32) → f0.length = 16 →
    (chaindec (mksched key) (chainenc (mksched key) p f0) f0).take (p.length - p.length % 16) =
      p.take (p.length - p.length % 16)

/-- spec/41_cipher.md R170, R171: doubling is a one-bit left shift across the 16 bytes with 0x87 into
byte 15 when a bit falls out; AES_MAC encrypts the seed under K1 when it has 16 bytes, and padded under
K2 when it is shorter. -/
def Obligations.AesMacUsesTheSubkeys : Prop :=
  (∀ x : Bytes, x.length = 16 →
    (dbl x).length = 16 ∧
    (∀ j, j < 15 → byteAt (dbl x) j = byteAt x j <<< 1 ||| byteAt x (j + 1) >>> 7) ∧
    byteAt (dbl x) 15 =
      byteAt x 15 <<< 1 ^^^ (if (byteAt x 0).getLsbD 7 then 0x87 else 0)) ∧
  ∀ (s : State) (m : Bytes), s.sched.valid = true → s.arg1 ≤ 16 → s.arg0 + s.arg1 ≤ 4096 →
    s.arg2 + 16 ≤ 4096 → m.length = s.arg1 → Memory.Holds s.buf s.arg0 m →
    let k := s.sched.keys
    let k1 := dbl (encblk k (zeros 16))
    let k2 := dbl k1
    ∃ t, exec .aesMac s = .next t ∧
      Memory.Stored s.buf t.buf s.arg2
        (encblk k (if m.length = 16 then xorBytes m k1
          else xorBytes (m ++ [0x80] ++ zeros (15 - m.length)) k2)) ∧
      t = { s with buf := t.buf, result := 16, busy := false }

/-! ## RSA and key material -/

/-- spec/42_rsa.md R191 to R193: RSA_PRIV raises the operand, a big-endian integer, to KM.D and RSA_PUB to
KM.E, modulo KM.N. A result that fits outLen bytes is written big-endian with zero bytes on the left;
one that does not is CRYPTO, and nothing is written. The integer 0, which an operand of length 0 is, gives
outLen zero bytes; that it does so with the exponent 0 too is log 19. -/
def Obligations.RsaTransforms : Prop :=
  ∀ (s : State) (x : Bytes) (i : Instr) (ex : Nat),
    (i = .rsaPriv ∧ ex = s.km.d ∨ i = .rsaPub ∧ ex = s.km.e) →
    s.km.valid = true → 2 ≤ s.km.n → s.arg1 ≤ 128 → 1 ≤ s.arg3 → s.arg3 ≤ 128 →
    s.arg0 + s.arg1 ≤ 4096 → s.arg2 + s.arg3 ≤ 4096 → x.length = s.arg1 →
    Memory.Holds s.buf s.arg0 x →
    (rsaValue (beInt x) ex s.km.n < 256 ^ s.arg3 →
      ∃ t y, exec i s = .next t ∧ y.length = s.arg3 ∧ beInt y = rsaValue (beInt x) ex s.km.n ∧
        Memory.Stored s.buf t.buf s.arg2 y ∧
        t = { s with buf := t.buf, result := s.larg.arg3, busy := false }) ∧
    (256 ^ s.arg3 ≤ rsaValue (beInt x) ex s.km.n →
      exec i s = .next { s with err := true, errCode := .crypto, result := 0, busy := false }) ∧
    (s.arg1 = 0 →
      ∃ t, exec i s = .next t ∧
        Memory.Stored s.buf t.buf s.arg2 (List.replicate s.arg3 0) ∧
        t = { s with buf := t.buf, result := s.larg.arg3, busy := false })

/-- spec/42_rsa.md R194: with a valid key pair the public transform undoes the private one. For N = 2 the
Carmichael function is 1 and every pair of exponents is valid, 0 among them; the input 0 then comes back
because the integer 0 gives 0 with every exponent (R192, log 19). -/
def Obligations.RsaRoundTrip : Prop :=
  ∀ (x : Bytes) (n e d outLen : Nat), 2 ≤ n → Squarefree n →
    e * d ≡ 1 [MOD ArithmeticFunction.carmichael n] → beInt x < n → minlen n ≤ outLen →
    ∃ y, rsa x d n outLen = some y ∧ rsa y e n outLen = some (beBytes (beInt x) outLen)

/-- spec/44_keymaterial.md R260, R261: KM_LOAD of a well-formed image loads its five fields, big-endian;
of a malformed one it is KM_INVALID and KM stays. -/
def Obligations.KmLoadReadsTheImage : Prop :=
  ∀ (s : State) (im : Bytes) (el nl dl cl n : Nat), s.km.valid = false → s.arg0 + 1037 ≤ 4096 →
    im.length = 1037 → Memory.Holds s.buf s.arg0 im →
    el = beInt (slice im 16 18) → nl = beInt (slice im 18 20) → dl = beInt (slice im 20 22) →
    cl = beInt (slice im 22 24) → n = beInt (slice im 152 (152 + nl)) →
    ((1 ≤ el ∧ el ≤ 128) ∧ (1 ≤ nl ∧ nl ≤ 128) ∧ (1 ≤ dl ∧ dl ≤ 128) ∧ cl ≤ 629 ∧ 2 ≤ n →
      exec .kmLoad s =
        .next { s with
                km := { valid := true, encKey := slice im 0 16, e := beInt (slice im 24 (24 + el))
                        n := n, d := beInt (slice im 280 (280 + dl))
                        cert := slice im 408 (408 + cl), certLen := cl }
                result := 0, busy := false }) ∧
    (¬((1 ≤ el ∧ el ≤ 128) ∧ (1 ≤ nl ∧ nl ≤ 128) ∧ (1 ≤ dl ∧ dl ≤ 128) ∧ cl ≤ 629 ∧ 2 ≤ n) →
      exec .kmLoad s =
        .next { s with err := true, errCode := .kmInvalid, result := 0, busy := false })

/-! ## Handshake commands -/

/-- spec/43_handshake.md R212: the transitions of HS_STATE, and that there is no other: a step that changes
HS_STATE is the meaning of an HS command, with one turn used up (log 2), or the soft-reset store. -/
def Obligations.HandshakeTransitions : Prop :=
  (∀ (i : Instr) (s t : State), s.err = false → exec i s = .next t →
    (i.isHs = false → t.hsState = s.hsState) ∧
    (i.isHs = true → t.err = false →
      (∀ st, i.requiredHs = some st → s.hsState = st) ∧ t.hsState = i.successHs s.hsState) ∧
    (i.isHs = true → t.err = true → t.hsState = .failed) ∧
    (i = .hsStart → t.err = true → t.errCode = .noKeymat) ∧
    (i = .hsAbort → t.err = false ∧ t.hsFail = .aborted)) ∧
  (∀ s : State, s.softReset.hsState = .idle) ∧
  ∀ s t : State, step s = .next t → t.hsState ≠ s.hsState →
    (∃ i, s.busy = true ∧ decode s.curCmd = .ok i ∧ i.isHs = true ∧
      step s = exec i { s with turns := s.turns.tail }) ∨
      (∃ op rest, s.script = op :: rest ∧ op.resets s.params) ∧ t.hsState = .idle

/-- spec/43_handshake.md R214: a command whose required state differs from HS_STATE ends with SEQUENCE,
whatever its arguments, the transport status and BUF. -/
def Obligations.SequenceCheckComesFirst : Prop :=
  ∀ (i : Instr) (s : State) (st : HsState), i.requiredHs = some st → s.hsState ≠ st →
    exec i s =
      .next { s with
              err := true, errCode := .sequence, result := 0, busy := false, hsState := .failed
              hsFail := .sequence, enable := { w0 := 0, w1 := 0, w2 := 0, w3 := 0 }
              session := { nonce := List.replicate 16 0, skey := List.replicate 16 0,
                           macHash := List.replicate 20 0, macCount := 0 } }

/-- spec/43_handshake.md R220, R250: HS_START with key material discards the session and enters Reset from
every state; without it, it fails with NO_KEYMAT; HS_ABORT enters Failed from every state, without an
error. -/
def Obligations.HsStartAndHsAbort : Prop :=
  ∀ s : State,
    (s.km.valid = true →
      exec .hsStart s =
        .next { s with
                hsState := .reset, hsFail := .ok, enable := { w0 := 0, w1 := 0, w2 := 0, w3 := 0 }
                session := { nonce := List.replicate 16 0, skey := List.replicate 16 0,
                             macHash := List.replicate 20 0, macCount := 0 }
                result := 0, busy := false }) ∧
    (s.km.valid = false →
      exec .hsStart s = .next (Instr.failure .hsStart s .noKeymat)) ∧
    exec .hsAbort s =
      .next { s with
              hsState := .failed, hsFail := .aborted
              enable := { w0 := 0, w1 := 0, w2 := 0, w3 := 0 }
              session := { nonce := List.replicate 16 0, skey := List.replicate 16 0,
                           macHash := List.replicate 20 0, macCount := 0 }
              result := 0, busy := false }

/-- spec/43_handshake.md R221, R222: HS_CERT in Reset, with loaded key material whose certificate has 0x275
bytes, builds the 785-byte message around the drawn nonce, whatever the 16 draws are, and enters
CertSent. The last 128 bytes are the signature buffer raised to KM.D modulo KM.N (R191); that a buffer
whose value is 0 would give 0 with KM.D = 0 too is the model's reading (log 19). -/
def Obligations.HsCertBuildsTheMessage : Prop :=
  ∀ s : State, s.km.Loaded → s.hsState = .reset → s.arg2 + 785 ≤ 4096 → s.ltstatus = 0 →
    s.km.certLen = 0x275 →
    let nonce := s.drawn 16
    let body : Bytes := [0x02, 0x01, 0x01, 0x00, 0x00, 0x02, 0x75] ++ s.km.cert ++ [0x00, 0x10] ++
      nonce ++ [0x01, 0x00, 0x80]
    ∃ t sig, exec .hsCert s = .next t ∧ nonce.length = 16 ∧ body.length = 657 ∧ sig.length = 128 ∧
      beInt sig =
        rsaValue (beInt (sigBuffer s.params (sigDigest s.params (slice body 2 654)))) s.km.d
          s.km.n ∧
      Memory.Stored s.buf t.buf s.arg2 (body ++ sig) ∧
      t = { s with
            buf := t.buf, session := { s.session with nonce := nonce }, hsState := .certSent
            draws := s.draws + 16, randomInput := s.randomInput.drop 16
            result := 785, busy := false }

/-- spec/43_handshake.md R223: the layout of the buffer that wraps the first digest and of the
pre-signature buffer, byte by byte, for every value of the parameters. -/
def Obligations.SignatureBufferLayout : Prop :=
  ∀ (p : Params) (d : Bytes), d.length = 20 →
    (wrapDigest p d).length = 28 ∧
    (∀ j, j < 28 → byteAt (wrapDigest p d) j =
      if p.sigWrapOffset.val ≤ j ∧ j < p.sigWrapOffset.val + 20
      then byteAt d (j - p.sigWrapOffset.val) else 0) ∧
    (sigBuffer p d).length = 128 ∧
    byteAt (sigBuffer p d) 0 = byteAt (expand d 107) 0 &&& 0x7F ∧
    (∀ j, 1 ≤ j → j ≤ 105 → byteAt (sigBuffer p d) j = byteAt (expand d 107) j) ∧
    byteAt (sigBuffer p d) 106 = p.sigMarker ^^^ byteAt (expand d 107) 106 ∧
    (∀ j, j < 20 → byteAt (sigBuffer p d) (107 + j) = byteAt d j) ∧
    byteAt (sigBuffer p d) 127 = p.sigTrailer

/-- spec/43_handshake.md R233: a payload parses exactly when it is laid out in the fields of the rule, with
big-endian lengths and a MAC-hash of 20 bytes; the echo and the MAC-hash are then those fields. -/
def Obligations.PayloadParsesAsItsFields : Prop :=
  ∀ pl echo mh : Bytes, parsePayload pl = some (echo, mh) ↔
    ∃ (skip0 skip1 skip2 : Byte) (cert rand sig tail : Bytes),
      cert.length < 256 ^ 4 ∧ echo.length < 256 ^ 2 ∧ rand.length < 256 ^ 2 ∧
      sig.length < 256 ^ 2 ∧ mh.length = 20 ∧
      pl = payloadOf skip0 skip1 skip2 cert echo rand sig mh tail

/-- spec/43_handshake.md R231: unwrapping 128 bytes, byte by byte: byte 0 stays; bytes 1 to 20 are XORed
with the 20-byte stream of bytes 21 to 127; then bytes 21 to 127 with the 107-byte stream of the bytes 1
to 20 so formed; the session key is the last 16 bytes. What the streams are is
HashExpandWritesTheKeystream. -/
def Obligations.UnwrapLayout : Prop :=
  ∀ x : Bytes, x.length = 128 →
    let seed := (List.range 20).map fun j =>
      byteAt x (1 + j) ^^^ byteAt (expand (slice x 21 128) 20) j
    (unwrapBuffer x).length = 128 ∧ byteAt (unwrapBuffer x) 0 = byteAt x 0 ∧
    (∀ j, j < 20 → byteAt (unwrapBuffer x) (1 + j) = byteAt seed j) ∧
    (∀ j, j < 107 →
      byteAt (unwrapBuffer x) (21 + j) = byteAt x (21 + j) ^^^ byteAt (expand seed 107) j) ∧
    (unwrap x).length = 16 ∧ ∀ j, j < 16 → byteAt (unwrap x) j = byteAt (unwrapBuffer x) (112 + j)

/-- spec/43_handshake.md R230 to R235: HS_RESPONSE in CertSent accepts a well-framed response whose
payload echoes the nonce: it holds the session key, the MAC-hash and the counter from it, enters
ResponseValidated, and writes no BUF byte. What `unwrap` answers is UnwrapLayout. That a blob of the
integer 0 transforms to 0 with KM.D = 0 too, which decides the session key there, is the model's reading
(log 19). -/
def Obligations.HsResponseAcceptsTheEcho : Prop :=
  ∀ (s : State) (r mh : Bytes), 2 ≤ s.km.n → s.km.n < 256 ^ 128 → s.hsState = .certSent →
    s.arg0 + s.arg1 ≤ 4096 → s.ltstatus = 0 → r.length = s.arg1 → Memory.Holds s.buf s.arg0 r →
    WellFramed r →
    let x := beBytes (rsaValue (beInt (slice r 4 132)) s.km.d s.km.n) 128
    parsePayload (chaindec (mksched (unwrap x)) (slice r 136 968) s.params.hsIv.toList) =
      some (s.session.nonce, mh) →
    exec .hsResponse s =
      .next { s with
              session := { nonce := s.session.nonce, skey := unwrap x, macHash := mh
                           macCount := BitVec.ofNat 32 (beInt (slice mh
                             s.params.macCountOffset.val (s.params.macCountOffset.val + 4))) }
              hsState := .responseValidated, result := 0, busy := false }

/-- spec/43_handshake.md R230, R233, R234, R251: HS_RESPONSE turns away a response with a wrong length or
marker (FRAMING, whatever the key material), one whose payload does not parse (FRAMING), and one whose
echo is not the nonce (AUTH); each enters Failed. For a well-framed response whose blob is the integer 0,
with KM.D = 0, what the payload decrypts to rests on the model's reading of that transform (log 19). -/
def Obligations.HsResponseTurnsAway : Prop :=
  ∀ (s : State) (r : Bytes), s.hsState = .certSent → s.arg0 + s.arg1 ≤ 4096 → s.ltstatus = 0 →
    r.length = s.arg1 → Memory.Holds s.buf s.arg0 r →
    let x := beBytes (rsaValue (beInt (slice r 4 132)) s.km.d s.km.n) 128
    let pl := chaindec (mksched (unwrap x)) (slice r 136 968) s.params.hsIv.toList
    (¬WellFramed r → exec .hsResponse s = .next (Instr.failure .hsResponse s .framing)) ∧
    (WellFramed r → 2 ≤ s.km.n → s.km.n < 256 ^ 128 →
      (parsePayload pl = none →
        exec .hsResponse s = .next (Instr.failure .hsResponse s .framing)) ∧
      ∀ echo mh, parsePayload pl = some (echo, mh) → echo ≠ s.session.nonce →
        exec .hsResponse s = .next (Instr.failure .hsResponse s .auth))

/-- spec/43_handshake.md R240, spec/41_cipher.md R170: HS_CONFIRM in ResponseValidated writes the 4-byte
marker and the MAC, under the session key, of fifteen zero bytes and 0x01, by the K1 path. -/
def Obligations.HsConfirmBuildsTheMessage : Prop :=
  ∀ s : State, s.hsState = .responseValidated → s.arg2 + 20 ≤ 4096 →
    let k := mksched s.session.skey
    let k1 := dbl (encblk k (zeros 16))
    ∃ t, exec .hsConfirm s = .next t ∧
      Memory.Stored s.buf t.buf s.arg2
        ([0x02, 0x03, 0x00, 0x10] ++ encblk k (xorBytes (zeros 15 ++ [0x01]) k1)) ∧
      t = { s with buf := t.buf, hsState := .confirmed, result := 20, busy := false }

/-- spec/43_handshake.md R245, spec/41_cipher.md R170: HS_OPEN in Confirmed sets HS_W0 to HS_W3 to the
big-endian words of the MAC, under the session key, of the four bytes of the counter, by the K2 path,
and enters SessionOpen. -/
def Obligations.HsOpenDerivesTheWords : Prop :=
  ∀ s : State, s.hsState = .confirmed → s.ltstatus = 0 →
    let k := mksched s.session.skey
    let k2 := dbl (dbl (encblk k (zeros 16)))
    let m := encblk k (xorBytes (beBytes s.session.macCount.toNat 4 ++ [0x80] ++ zeros 11) k2)
    exec .hsOpen s =
      .next { s with
              enable := { w0 := BitVec.ofNat 32 (beInt (slice m 0 4))
                          w1 := BitVec.ofNat 32 (beInt (slice m 4 8))
                          w2 := BitVec.ofNat 32 (beInt (slice m 8 12))
                          w3 := BitVec.ofNat 32 (beInt (slice m 12 16)) }
              hsState := .sessionOpen, result := 0, busy := false }

end Statements
end

