-- ==== Sys2Proof/Laws/Bytes.lean ====
section
/-! SUPPORT. Lengths and bytes of byte strings, and conversions between integers and bytes. -/

namespace Sys2Proof.Machine

@[simp] theorem length_zeros (n : Nat) : (zeros n).length = n := List.length_replicate ..

@[simp] theorem length_xorBytes (s t : Bytes) : (xorBytes s t).length = min s.length t.length :=
  List.length_zipWith ..

@[simp] theorem length_slice (s : Bytes) (a b : Nat) :
    (slice s a b).length = min (b - a) (s.length - a) := by
  simp [slice]

@[simp] theorem length_beBytes (v n : Nat) : (beBytes v n).length = n := by
  induction n with
  | zero => rfl
  | succ n ih => simp [beBytes, ih]

@[simp] theorem length_leBytes (v n : Nat) : (leBytes v n).length = n := by
  induction n generalizing v with
  | zero => rfl
  | succ n ih => simp [leBytes, ih]

@[simp] theorem length_be32 (v : Word) : (be32 v).length = 4 := length_beBytes ..

@[simp] theorem length_be64 (v : BitVec 64) : (be64 v).length = 8 := length_beBytes ..

theorem length_spliceAt (s : Bytes) (a : Nat) (t : Bytes) (h : a + t.length ≤ s.length) :
    (spliceAt s a t).length = s.length := by
  simp [spliceAt]; omega

/-- Byte `j` of a slice. -/
theorem byteAt_slice {s : Bytes} {a b j : Nat} (h : a + j < b) :
    byteAt (slice s a b) j = byteAt s (a + j) := by
  unfold byteAt slice
  rw [List.getD_eq_getElem?_getD, List.getElem?_take_of_lt (by omega), List.getElem?_drop,
    ← List.getD_eq_getElem?_getD]

/-- Byte `j` of an XOR. -/
theorem byteAt_xorBytes {s t : Bytes} {j : Nat} (hs : j < s.length) (ht : j < t.length) :
    byteAt (xorBytes s t) j = byteAt s j ^^^ byteAt t j := by
  simp only [byteAt, xorBytes, List.getD_eq_getElem?_getD, List.getElem?_zipWith,
    List.getElem?_eq_getElem hs, List.getElem?_eq_getElem ht, Option.getD_some]

/-- Byte `j` of a string some of whose bytes were replaced. -/
theorem byteAt_spliceAt {s t : Bytes} {a : Nat} (h : a + t.length ≤ s.length) (j : Nat) :
    byteAt (spliceAt s a t) j =
      if a ≤ j ∧ j < a + t.length then byteAt t (j - a) else byteAt s j := by
  have ht : (s.take a).length = a := List.length_take_of_le (by omega)
  unfold byteAt spliceAt
  simp only [List.getD_eq_getElem?_getD]
  rcases Nat.lt_or_ge j a with h1 | h1
  · rw [if_neg (by omega), List.append_assoc, List.getElem?_append_left (by omega),
      List.getElem?_take_of_lt h1]
  · rw [List.append_assoc, List.getElem?_append_right (by omega), ht]
    rcases Nat.lt_or_ge j (a + t.length) with h2 | h2
    · rw [if_pos ⟨h1, h2⟩, List.getElem?_append_left (by omega)]
    · rw [if_neg (by omega), List.getElem?_append_right (by omega), List.getElem?_drop]
      congr 2; omega

/-- Strings of one length with the same bytes are equal. -/
theorem bytes_ext {s t : Bytes} (hl : s.length = t.length)
    (h : ∀ j, j < s.length → byteAt s j = byteAt t j) : s = t :=
  List.ext_getElem hl fun j h1 h2 => by
    simpa [byteAt, List.getD_eq_getElem?_getD, h1, h2] using h j h1

/-- A fold of `BEint` from an accumulator. -/
theorem foldl_beInt (s : Bytes) (v : Nat) :
    s.foldl (fun v b => v * 256 + b.toNat) v = v * 256 ^ s.length + beInt s := by
  induction s generalizing v with
  | nil => simp [beInt]
  | cons b s ih =>
    have h0 := ih (0 * 256 + b.toNat)
    have hc : beInt (b :: s) = (0 * 256 + b.toNat) * 256 ^ s.length + beInt s := h0
    rw [List.foldl_cons, ih, hc, List.length_cons, pow_succ]
    ring

@[simp] theorem beInt_nil : beInt [] = 0 := rfl

/-- The first byte is the most significant. -/
theorem beInt_cons (b : Byte) (s : Bytes) : beInt (b :: s) = b.toNat * 256 ^ s.length + beInt s := by
  conv_lhs => rw [beInt]
  simp [foldl_beInt]

theorem beInt_append (s t : Bytes) : beInt (s ++ t) = beInt s * 256 ^ t.length + beInt t := by
  conv_lhs => rw [beInt]
  rw [List.foldl_append, foldl_beInt]
  rfl

theorem beInt_lt (s : Bytes) : beInt s < 256 ^ s.length := by
  induction s with
  | nil => simp
  | cons b s ih =>
    have hb : b.toNat < 256 := b.isLt
    rw [beInt_cons, List.length_cons, pow_succ]
    nlinarith [Nat.mul_le_mul_right (256 ^ s.length) (Nat.le_of_lt_succ hb)]

/-- `BEbytes` drops what lies above its length. -/
theorem beInt_beBytes (v n : Nat) : beInt (beBytes v n) = v % 256 ^ n := by
  induction n with
  | zero => simp [beBytes, Nat.mod_one]
  | succ n ih =>
    have hb : (BitVec.ofNat 8 (v / 256 ^ n)).toNat = v / 256 ^ n % 256 := rfl
    rw [beBytes, beInt_cons, ih, length_beBytes, hb, Nat.mod_pow_succ, Nat.mul_comm, Nat.add_comm]

theorem beInt_beBytes_of_lt {v n : Nat} (h : v < 256 ^ n) : beInt (beBytes v n) = v := by
  rw [beInt_beBytes, Nat.mod_eq_of_lt h]

theorem beBytes_mod (v n k : Nat) (h : n ≤ k) : beBytes (v % 256 ^ k) n = beBytes v n := by
  induction n with
  | zero => rfl
  | succ n ih =>
    have hb : BitVec.ofNat 8 (v % 256 ^ k / 256 ^ n) = BitVec.ofNat 8 (v / 256 ^ n) := by
      apply BitVec.eq_of_toNat_eq
      obtain ⟨d, rfl⟩ : ∃ d, k = n + 1 + d := ⟨k - (n + 1), by omega⟩
      simp only [BitVec.toNat_ofNat]
      rw [show (256 : Nat) ^ (n + 1 + d) = 256 ^ n * (256 * 256 ^ d) by ring,
        Nat.mod_mul_right_div_self, show (2 : Nat) ^ 8 = 256 by rfl, Nat.mod_mul_right_mod]
    rw [beBytes, beBytes, ih (by omega), hb]

/-- Reading and writing the same number of bytes undo each other. -/
theorem beBytes_beInt (s : Bytes) : beBytes (beInt s) s.length = s := by
  induction s with
  | nil => rfl
  | cons b s ih =>
    have hs := beInt_lt s
    have hpos : 0 < 256 ^ s.length := Nat.pow_pos (by norm_num)
    rw [List.length_cons, beBytes, beInt_cons]
    congr 1
    · rw [Nat.mul_comm, Nat.mul_add_div hpos, Nat.div_eq_of_lt hs]
      simp
    · rw [← beBytes_mod _ _ s.length le_rfl, Nat.mul_comm, Nat.mul_add_mod, Nat.mod_eq_of_lt hs, ih]

/-- `minlen(v)` is the least number of bytes that hold `v`. -/
theorem minlen_le_iff (v n : Nat) : minlen v ≤ n ↔ v < 256 ^ n := by
  unfold minlen
  split
  · subst v; simp
  · rename_i h
    rw [show (256 : Nat) ^ n = 2 ^ (8 * n) by rw [pow_mul]; norm_num, ← Nat.log2_lt h]
    omega

end Sys2Proof.Machine
end

