-- ==== Sys2Proof/Laws/Cipher.lean ====
section
/-! SUPPORT. The BlockCipherEngine's functions: the lengths of what they return. -/

namespace Sys2Proof.Machine

@[simp] theorem length_blockOf (f : Nat → Nat → Byte) : (blockOf f).length = 16 := by simp [blockOf]

@[simp] theorem length_shiftRows (s : Bytes) : (shiftRows s).length = 16 := length_blockOf _

@[simp] theorem length_invShiftRows (s : Bytes) : (invShiftRows s).length = 16 := length_blockOf _

@[simp] theorem length_mixColumns (s : Bytes) : (mixColumns s).length = 16 := length_blockOf _

@[simp] theorem length_invMixColumns (s : Bytes) : (invMixColumns s).length = 16 := length_blockOf _

@[simp] theorem length_subBytes (s : Bytes) : (subBytes s).length = s.length := by simp [subBytes]

@[simp] theorem length_invSubBytes (s : Bytes) : (invSubBytes s).length = s.length := by
  simp [invSubBytes]

@[simp] theorem length_dbl (x : Bytes) : (dbl x).length = 16 := length_beBytes ..

theorem length_scheduleCore {nk i : Nat} {t : Bytes} (h : t.length = 4) :
    (scheduleCore nk i t).length = 4 := by
  unfold scheduleCore
  split
  · rfl
  · split <;> simp [h]

/-- Every entry of a list of words that all have 4 bytes, read inside the list. -/
theorem length_getD_of_all {w : List Bytes} {n i : Nat} (hw : ∀ x ∈ w, x.length = n)
    (hi : i < w.length) : (w.getD i []).length = n := by
  rw [List.getD_eq_getElem _ _ hi]
  exact hw _ (List.getElem_mem hi)

theorem length_extendKey (nk count : Nat) (w : List Bytes) :
    (extendKey nk count w).length = w.length + count := by
  induction count generalizing w with
  | zero => rfl
  | succ count ih => rw [extendKey, ih, List.length_cons]; omega

theorem extendKey_all {nk count : Nat} {w : List Bytes} (hnk : 0 < nk) (hl : nk ≤ w.length)
    (hw : ∀ x ∈ w, x.length = 4) : ∀ x ∈ extendKey nk count w, x.length = 4 := by
  induction count generalizing w with
  | zero => exact hw
  | succ count ih =>
    rw [extendKey]
    refine ih (by simp; omega) fun x hx => ?_
    rcases List.mem_cons.mp hx with rfl | hx
    · rw [length_xorBytes, length_getD_of_all hw (by omega),
        length_scheduleCore (length_getD_of_all hw (by omega))]
      rfl
    · exact hw x hx

theorem length_expandKey {key : Bytes} : (expandKey key).length = 4 * (key.length / 4 + 7) := by
  simp [expandKey, length_extendKey]
  omega

theorem expandKey_all {key : Bytes} (hk : keyLength key.length) :
    ∀ x ∈ expandKey key, x.length = 4 := by
  intro x hx
  rw [expandKey, List.mem_reverse] at hx
  refine extendKey_all (by rcases hk with h | h | h <;> omega) (by simp) (fun y hy => ?_) x hx
  simp only [List.mem_reverse, List.mem_map, List.mem_range] at hy
  obtain ⟨i, hi, rfl⟩ := hy
  rw [length_slice]
  omega

/-- A set of round keys that the block functions can use: NR + 1 keys of 16 bytes, twice. -/
structure RoundKeys.Sound (k : RoundKeys) : Prop where
  /-- EK is complete. -/
  ek_length : ∀ r ≤ k.nr, (k.ekAt r).length = 16
  /-- DK is complete. -/
  dk_length : ∀ r ≤ k.nr, (k.dkAt r).length = 16

@[simp] theorem mksched_nr (key : Bytes) : (mksched key).nr = key.length / 4 + 6 := rfl

theorem mksched_sound {key : Bytes} (hk : keyLength key.length) : (mksched key).Sound := by
  have hw : ∀ i, i < 4 * (key.length / 4 + 7) → ((expandKey key).getD i []).length = 4 := fun i hi =>
    length_getD_of_all (expandKey_all hk) (by rw [length_expandKey]; exact hi)
  have hek : ∀ r ≤ key.length / 4 + 6, ((mksched key).ek.getD r []).length = 16 := by
    intro r hr
    rw [mksched, List.getD_eq_getElem _ _ (by simp; omega)]
    simp only [List.getElem_map, List.getElem_range, List.length_append]
    rw [hw _ (by omega), hw _ (by omega), hw _ (by omega), hw _ (by omega)]
  refine ⟨hek, fun r hr => ?_⟩
  have hr' : r ≤ key.length / 4 + 6 := hr
  rw [RoundKeys.dkAt, show (mksched key).dk = (List.range (key.length / 4 + 6 + 1)).map (fun r =>
    if r = 0 ∨ r = key.length / 4 + 6 then (mksched key).ek.getD r []
    else invMixColumns ((mksched key).ek.getD r [])) from rfl,
    List.getD_eq_getElem _ _ (by simp; omega)]
  simp only [List.getElem_map, List.getElem_range]
  split
  · exact hek r hr'
  · simp

theorem length_encblk {k : RoundKeys} (hk : k.Sound) (b : Bytes) : (encblk k b).length = 16 := by
  simp [encblk, hk.ek_length k.nr le_rfl]

theorem length_decblk {k : RoundKeys} (hk : k.Sound) (b : Bytes) : (decblk k b).length = 16 := by
  simp [decblk, hk.dk_length 0 (Nat.zero_le _)]

theorem length_mac {k : RoundKeys} (hk : k.Sound) (m : Bytes) : (mac k m).length = 16 :=
  length_encblk hk _

@[simp] theorem length_seedInto (seed : Option Bytes) (b : Bytes)
    (h : ∀ x ∈ seed, x.length = b.length) : (seedInto seed b).length = b.length := by
  cases seed with
  | none => rfl
  | some x => simp [seedInto, h x rfl]

theorem length_chainEncChunks {k : RoundKeys} (hk : k.Sound) (chunks : Nat) (p f : Bytes)
    (hf : f.length = 16) : (chainEncChunks k chunks p f).length = min (16 * chunks) p.length := by
  induction chunks generalizing p f with
  | zero => simp [chainEncChunks]
  | succ chunks ih =>
    simp only [chainEncChunks, List.length_append, ih _ _ (length_encblk hk _), List.length_take,
      List.length_drop, length_encblk hk]
    omega

theorem length_chainenc {k : RoundKeys} (hk : k.Sound) (p : Bytes) {f : Bytes}
    (hf : f.length = 16) : (chainenc k p f).length = p.length := by
  rw [chainenc, length_chainEncChunks hk _ _ _ hf]
  omega

theorem length_chainDecChunks {k : RoundKeys} (hk : k.Sound) (chunks : Nat) (c f : Bytes)
    (hf : f.length = 16) : (chainDecChunks k chunks c f).length = min (16 * chunks) c.length := by
  induction chunks generalizing c f with
  | zero => simp [chainDecChunks]
  | succ chunks ih =>
    have hp : (padChunk (c.take 16)).length = 16 := by simp [padChunk]
    simp only [chainDecChunks, List.length_append, ih _ _ hp, List.length_take, List.length_drop,
      length_xorBytes, length_decblk hk, hf]
    omega

theorem length_chaindec {k : RoundKeys} (hk : k.Sound) (c : Bytes) {f : Bytes}
    (hf : f.length = 16) : (chaindec k c f).length = c.length := by
  rw [chaindec, length_chainDecChunks hk _ _ _ hf]
  omega

end Sys2Proof.Machine
end

