-- ==== Sys2Proof/Laws/Hash.lean ====
section
/-! SUPPORT. The HashEngine's functions: the lengths of what they return, and that they keep a hash
instance sound. -/

namespace Sys2Proof.Machine

@[simp] theorem HashWords.length_bytes (h : HashWords) : h.bytes.length = 20 := by
  simp [HashWords.bytes]

@[simp] theorem length_hfinalBytes (h : HashState) : (hfinalBytes h).length = 20 :=
  HashWords.length_bytes _

@[simp] theorem length_digest (m : Bytes) : (digest m).length = 20 := length_hfinalBytes _

@[simp] theorem length_expand (m : Bytes) (n : Nat) : (expand m n).length = n := by
  simp [expand, List.length_flatMap]
  omega

theorem HashState.initial_sound : HashState.initial.Sound := ⟨by decide, by decide⟩

theorem HashState.Sound.hreset {h : HashState} (hs : h.Sound) : (hreset h).Sound :=
  ⟨hs.blk_length, rfl⟩

theorem HashState.Sound.hfinalState {h : HashState} (hs : h.Sound) : (hfinalState h).Sound :=
  ⟨hs.blk_length, rfl⟩

theorem HashState.Sound.hupdateByte {h : HashState} (hs : h.Sound) (x : Byte) :
    (hupdateByte h x).Sound where
  blk_length := by simp [Machine.hupdateByte, hs.blk_length]
  cnt_bytes := by
    have := hs.cnt_bytes
    have h8 : (Machine.hupdateByte h x).cnt.toNat = (h.cnt.toNat + 8) % 2 ^ 64 := rfl
    omega

theorem HashState.Sound.hupdate {h : HashState} (hs : h.Sound) (data : Bytes) :
    (hupdate h data).Sound := by
  induction data generalizing h with
  | nil => exact hs
  | cons x data ih => exact ih (hs.hupdateByte x)

/-- An update with two strings is an update with their concatenation. -/
theorem hupdate_append (h : HashState) (a b : Bytes) :
    hupdate h (a ++ b) = hupdate (hupdate h a) b := List.foldl_append ..

end Sys2Proof.Machine
end

