-- ==== Sys2Proof/Laws/Rsa.lean ====
section
/-! SUPPORT. The RsaEngine's function: square and multiply computes the power, and what `rsa`
answers. -/

namespace Sys2Proof.Machine

theorem powModBits_eq (n fuel x ex acc : Nat) (h : ex < 2 ^ fuel) :
    powModBits n fuel x ex acc % n = acc * x ^ ex % n := by
  induction fuel generalizing x ex acc with
  | zero =>
    obtain rfl : ex = 0 := by simpa using h
    simp [powModBits]
  | succ fuel ih =>
    have hd : ex / 2 < 2 ^ fuel := by rw [pow_succ] at h; omega
    have hx : ((x * x % n) ^ (ex / 2)) % n = (x * x) ^ (ex / 2) % n := (Nat.pow_mod ..).symm
    rw [powModBits, ih _ _ _ hd, Nat.mul_mod, hx, ← Nat.mul_mod]
    rcases Nat.mod_two_eq_zero_or_one ex with he | he
    · rw [if_neg (by omega), ← pow_two, ← pow_mul, show 2 * (ex / 2) = ex by omega]
    · rw [if_pos he, ← pow_two, ← pow_mul, Nat.mul_mod, Nat.mod_mod, ← Nat.mul_mod, Nat.mul_assoc,
        ← pow_succ', show 2 * (ex / 2) + 1 = ex by omega]

theorem powModBits_lt (n fuel x ex acc : Nat) (ha : acc < n) : powModBits n fuel x ex acc < n := by
  induction fuel generalizing x ex acc with
  | zero => exact ha
  | succ fuel ih =>
    rw [powModBits]
    apply ih
    split
    · exact Nat.mod_lt _ (by omega)
    · exact ha

@[simp] theorem rsaValue_zero (ex n : Nat) : rsaValue 0 ex n = 0 := if_pos rfl

theorem rsaValue_of_ne_zero {x : Nat} (h : x ≠ 0) (ex n : Nat) : rsaValue x ex n = x ^ ex % n :=
  if_neg h

theorem rsaValue_lt (x ex : Nat) {n : Nat} (hn : 0 < n) : rsaValue x ex n < n := by
  unfold rsaValue
  split
  · exact hn
  · exact Nat.mod_lt _ hn

/-- `pow(x, e, n)` is `x^e mod n`, and 0 for `x = 0` (spec/00_scope.md R12, spec/42_rsa.md R192), for every
modulus a command can meet. -/
theorem powMod_eq (x ex n : Nat) (hn : 0 < n) : powMod x ex n = rsaValue x ex n := by
  have ha : (if x = 0 then 0 else 1 % n) < n := by
    split
    · exact hn
    · exact Nat.mod_lt _ hn
  have h := powModBits_eq n (ex.log2 + 1) (x % n) ex (if x = 0 then 0 else 1 % n) Nat.lt_log2_self
  rw [Nat.mod_eq_of_lt (powModBits_lt _ _ _ _ _ ha)] at h
  rw [powMod, rsaValue, h]
  split
  · rw [Nat.zero_mul, Nat.zero_mod]
  · rw [Nat.mul_mod, Nat.mod_mod, ← Nat.mul_mod, Nat.one_mul, ← Nat.pow_mod]

/-- What `rsa` answers (spec/42_rsa.md R191). -/
theorem rsa_eq (x : Bytes) (ex n outLen : Nat) (hn : 0 < n) :
    rsa x ex n outLen =
      if rsaValue (beInt x) ex n < 256 ^ outLen
      then some (beBytes (rsaValue (beInt x) ex n) outLen) else none := by
  unfold rsa
  simp only [powMod_eq _ _ _ hn, gt_iff_lt]
  by_cases h : rsaValue (beInt x) ex n < 256 ^ outLen
  · rw [if_neg (by rw [Nat.not_lt, minlen_le_iff]; exact h), if_pos h]
  · rw [if_pos (by rw [← Nat.not_le, minlen_le_iff]; exact h), if_neg h]

theorem length_of_rsa {x : Bytes} {ex n outLen : Nat} {y : Bytes} (h : rsa x ex n outLen = some y) :
    y.length = outLen := by
  unfold rsa at h
  simp only at h
  split at h
  · cases h
  · cases h; exact length_beBytes ..

/-- With a modulus of at most 128 bytes a 128-byte result never fails. -/
theorem rsa_isSome {x : Bytes} {ex n : Nat} (h2 : 2 ≤ n) (h : n < 256 ^ 128) :
    ∃ y, rsa x ex n 128 = some y := by
  rw [rsa_eq _ _ _ _ (by omega), if_pos (lt_trans (rsaValue_lt _ _ (by omega)) h)]
  exact ⟨_, rfl⟩

end Sys2Proof.Machine
end

