-- ==== Sys2Proof/Laws/Handshake.lean ====
section
/-! SUPPORT. The HandshakeOrchestrator's functions: the lengths of what they build and what parsing
answers. -/

namespace Sys2Proof.Machine

theorem length_certBody {cert nonce : Bytes} (hc : cert.length = 629) (hn : nonce.length = 16) :
    (certBody cert nonce).length = 657 := by
  simp [certBody, hc, hn]

theorem length_wrapDigest (p : Params) {mh : Bytes} (h : mh.length = 20) :
    (wrapDigest p mh).length = 28 := by
  rw [wrapDigest, length_spliceAt _ _ _ (by simp [h]; omega), length_zeros]

@[simp] theorem length_sigDigest (p : Params) (t : Bytes) : (sigDigest p t).length = 20 :=
  length_digest _

theorem length_sigBuffer (p : Params) {h : Bytes} (hh : h.length = 20) :
    (sigBuffer p h).length = 128 := by
  have h1 : (spliceAt (zeros 128) 106 [p.sigMarker]).length = 128 := by
    rw [length_spliceAt _ _ _ (by simp), length_zeros]
  have h2 : (spliceAt (spliceAt (zeros 128) 106 [p.sigMarker]) 107 h).length = 128 := by
    rw [length_spliceAt _ _ _ (by omega), h1]
  simp only [sigBuffer]
  rw [length_spliceAt, length_spliceAt, length_spliceAt]
  all_goals simp [h2, length_spliceAt]

theorem sigBlock_isSome {p : Params} {km : KeyMaterial} (hk : km.Loaded) (t : Bytes) :
    ∃ sig, sigBlock p km t = some sig ∧ sig.length = 128 := by
  obtain ⟨y, hy⟩ := rsa_isSome (x := sigBuffer p (sigDigest p t)) (ex := km.d) hk.n_ge hk.n_lt
  exact ⟨y, hy, length_of_rsa hy⟩

theorem length_unwrapBuffer {x : Bytes} (h : x.length = 128) : (unwrapBuffer x).length = 128 := by
  have h1 : (spliceAt x 1 (xorBytes (slice x 1 21) (expand (slice x 21 128) 20))).length = 128 := by
    rw [length_spliceAt _ _ _ (by simp [h]), h]
  simp only [unwrapBuffer]
  rw [length_spliceAt _ _ _ (by simp [h1]), h1]

theorem length_unwrap {x : Bytes} (h : x.length = 128) : (unwrap x).length = 16 := by
  rw [unwrap, length_slice, length_unwrapBuffer h]; rfl

/-- What `take(n)` answers. -/
theorem takeField_eq_some {pl : Bytes} {q n : Nat} {f : Bytes} {q' : Nat}
    (h : takeField pl q n = some (f, q')) :
    q + n ≤ pl.length ∧ f = slice pl q (q + n) ∧ q' = q + n := by
  unfold takeField at h
  split at h
  · cases h
  · cases h; exact ⟨by omega, rfl, rfl⟩

/-- A parsed payload has a MAC-hash of 20 bytes (spec/43_handshake.md R233). -/
theorem length_of_parsePayload {pl echo mh : Bytes} (h : parsePayload pl = some (echo, mh)) :
    mh.length = 20 := by
  simp only [parsePayload, Option.bind_eq_bind, Option.bind_eq_some_iff] at h
  obtain ⟨_, _, _, _, _, _, _, _, _, _, _, _, _, _, _, _, hm⟩ := h
  split at hm
  · rename_i h20; cases hm; exact h20
  · cases hm

/-- A field that fits is the same whatever bytes follow. -/
theorem takeField_append {pl : Bytes} {q n : Nat} {r : Bytes × Nat} (tail : Bytes)
    (h : takeField pl q n = some r) : takeField (pl ++ tail) q n = some r := by
  obtain ⟨hq, hf, hr⟩ := takeField_eq_some (f := r.1) (q' := r.2) h
  have hs : slice (pl ++ tail) q (q + n) = slice pl q (q + n) := by
    simp only [slice, Nat.add_sub_cancel_left]
    rw [List.drop_append_of_le_length (by omega), List.take_append_of_le_length (by simp; omega)]
  rw [takeField, if_neg (by simp; omega), hs]
  exact congrArg some (Prod.ext hf hr).symm

/-- A field with a length before it that fits is the same whatever bytes follow. -/
theorem takePrefixed_append {pl : Bytes} {q n : Nat} {r : Bytes × Nat} (tail : Bytes)
    (h : takePrefixed pl q n = some r) : takePrefixed (pl ++ tail) q n = some r := by
  unfold takePrefixed at h
  split at h
  · cases h
  · rename_i hl
    rw [takePrefixed, takeField_append tail hl]
    exact takeField_append tail h

/-- A payload that parses parses the same whatever bytes follow (spec/43_handshake.md R233). -/
theorem parsePayload_append {pl echo mh : Bytes} (tail : Bytes)
    (h : parsePayload pl = some (echo, mh)) : parsePayload (pl ++ tail) = some (echo, mh) := by
  simp only [parsePayload, Option.bind_eq_bind, Option.bind_eq_some_iff] at h ⊢
  obtain ⟨_, h1, _, h2, _, h3, _, h4, _, h5, _, h6, _, h7, _, h8, hm⟩ := h
  exact ⟨_, takeField_append tail h1, _, takePrefixed_append tail h2, _, takePrefixed_append tail h3,
    _, takePrefixed_append tail h4, _, takeField_append tail h5, _, takePrefixed_append tail h6, _,
    takeField_append tail h7, _, takePrefixed_append tail h8, hm⟩

/-- A payload whose certificate length runs past its end does not parse (spec/43_handshake.md R233). -/
theorem parsePayload_eq_none {pl : Bytes} (h : pl.length < 5 + beInt (slice pl 1 5)) :
    parsePayload pl = none := by
  have hp : takePrefixed pl 1 4 = none := by
    unfold takePrefixed
    split
    · rfl
    · rename_i hl
      obtain ⟨-, rfl, rfl⟩ := takeField_eq_some hl
      exact if_pos (by omega)
  cases h1 : takeField pl 0 1 with
  | none => simp [parsePayload, h1]
  | some r =>
    obtain ⟨-, -, hq⟩ := takeField_eq_some (f := r.1) (q' := r.2) h1
    simp [parsePayload, h1, hq, hp]

@[simp] theorem length_confirmSeed : confirmSeed.length = 16 := rfl

theorem length_confirmMessage {skey : Bytes} (h : skey.length = 16) :
    (confirmMessage skey).length = 20 := by
  simp [confirmMessage, length_mac (mksched_sound (key := skey) (.inl h))]

end Sys2Proof.Machine
end

