-- ==== Sys2Proof/Laws/KeyMaterial.lean ====
section
/-! SUPPORT. What parsing a key-material image answers. -/

namespace Sys2Proof.Machine

/-- What `parseImage` answers (spec/44_keymaterial.md R260, R261): the slots' lengths and the modulus
are in range, and the key material holds the image's numbers. -/
theorem parseImage_eq_some (i : Bytes) (km : KeyMaterial) :
    parseImage i = some km ↔
      (1 ≤ beInt (slice i 16 18) ∧ beInt (slice i 16 18) ≤ 128) ∧
      (1 ≤ beInt (slice i 18 20) ∧ beInt (slice i 18 20) ≤ 128) ∧
      (1 ≤ beInt (slice i 20 22) ∧ beInt (slice i 20 22) ≤ 128) ∧
      beInt (slice i 22 24) ≤ 629 ∧ 2 ≤ km.n ∧
      km = { valid := true, encKey := slice i 0 16,
             e := beInt (slice i 24 (24 + beInt (slice i 16 18)))
             n := beInt (slice i 152 (152 + beInt (slice i 18 20)))
             d := beInt (slice i 280 (280 + beInt (slice i 20 22)))
             cert := slice i 408 (408 + beInt (slice i 22 24))
             certLen := beInt (slice i 22 24) } := by
  rw [parseImage]
  simp only
  split
  · simp only [reduceCtorEq, false_iff]; omega
  · split
    · rename_i h
      simp only [reduceCtorEq, false_iff, not_and]
      rintro - - - - h2 rfl
      simp only at h2
      omega
    · rename_i h
      rw [Option.some.injEq]
      constructor
      · rintro rfl
        refine ⟨?_, ?_, ?_, ?_, ?_, rfl⟩ <;> (try simp only) <;> omega
      · rintro ⟨-, -, -, -, -, rfl⟩; rfl

/-- Key material from an image has the sizes of loaded key material. -/
theorem loaded_of_parseImage {i : Bytes} (hi : i.length = 1037) {km : KeyMaterial}
    (h : parseImage i = some km) : km.valid = true ∧ km.Loaded := by
  obtain ⟨he, hn, hd, hc, h2, rfl⟩ := (parseImage_eq_some ..).mp h
  have slot : ∀ a n, n ≤ 128 → beInt (slice i a (a + n)) < 256 ^ 128 := by
    intro a n hn
    refine lt_of_lt_of_le (beInt_lt _) (Nat.pow_le_pow_right (by norm_num) ?_)
    rw [length_slice]; omega
  refine ⟨rfl, ?_, ?_, ?_, ?_, ?_, ?_, ?_⟩
  all_goals simp only
  · simp [hi]
  · exact slot 24 _ he.2
  · simpa only using h2
  · exact slot 152 _ hn.2
  · exact slot 280 _ hd.2
  · simp only [length_slice, hi]; omega
  · exact hc

end Sys2Proof.Machine
end

