-- ==== Sys2Proof/Laws/Memory.lean ====
section
/-! SUPPORT. BUF: a read after a write, the canonical form, and reading a byte string. -/

namespace Sys2Proof.Machine

@[simp] theorem Memory.read_nil (x : Nat) : Memory.read [] x = none := rfl

theorem Memory.read_cons (c : Host.Cell) (m : Memory) (x : Nat) :
    Memory.read (c :: m) x = if x = c.1 then some c.2 else m.read x := by
  obtain ⟨k, b⟩ := c
  simp only [Memory.read, List.lookup_cons]
  by_cases h : x = k
  · simp [h]
  · simp [h, beq_false_of_ne h]

theorem Memory.read_append (m n : Memory) (x : Nat) :
    Memory.read (m ++ n) x = (m.read x).or (n.read x) := by
  induction m with
  | nil => simp
  | cons c m ih =>
    simp only [List.cons_append, Memory.read_cons, ih]
    split <;> simp

/-- Keeping the cells of some offsets keeps the reads there and no others. -/
theorem Memory.read_filter (m : Memory) (p : Nat → Bool) (x : Nat) :
    Memory.read (m.filter (fun c => p c.1)) x = if p x then m.read x else none := by
  induction m with
  | nil => simp
  | cons c m ih =>
    rw [List.filter_cons, Memory.read_cons]
    by_cases hc : p c.1
    · rw [if_pos (by simpa using hc), Memory.read_cons, ih]
      by_cases hx : x = c.1
      · simp [hx, hc]
      · simp [hx]
    · rw [if_neg (by simpa using hc), ih]
      by_cases hx : x = c.1
      · simp [hx, hc]
      · simp [hx]

theorem Memory.read_cells (a : Nat) (bs : Bytes) (x : Nat) :
    Memory.read (Memory.cells a bs) x = if a ≤ x then bs[x - a]? else none := by
  induction bs generalizing a with
  | nil => simp [Memory.cells]
  | cons b bs ih =>
    rw [Memory.cells, Memory.read_cons, ih]
    rcases lt_trichotomy x a with h | h | h
    · simp [show ¬ x = a by omega, show ¬ a ≤ x by omega, show ¬ a + 1 ≤ x by omega]
    · subst h; simp
    · obtain ⟨d, rfl⟩ : ∃ d, x = a + 1 + d := ⟨x - (a + 1), by omega⟩
      simp [show ¬ a + 1 + d = a by omega, show a ≤ a + 1 + d by omega,
        show a + 1 + d - a = d + 1 by omega]

/-- A read after a write: the stored byte inside the written range, as before outside. -/
theorem Memory.read_write (m : Memory) (a : Nat) (bs : Bytes) (x : Nat) :
    (m.write a bs).read x = if a ≤ x ∧ x < a + bs.length then bs[x - a]? else m.read x := by
  rw [Memory.write, Memory.read_append, Memory.read_append,
    Memory.read_filter m (fun k => decide (k < a)),
    Memory.read_filter m (fun k => decide (a + bs.length ≤ k)), Memory.read_cells]
  by_cases h1 : x < a
  · simp [h1, show ¬ a ≤ x by omega, show ¬ a + bs.length ≤ x by omega]
  · by_cases h2 : x < a + bs.length
    · simp [h1, h2, show a ≤ x by omega, show ¬ a + bs.length ≤ x by omega]
    · simp [h1, h2, show a ≤ x by omega, show a + bs.length ≤ x by omega,
        List.getElem?_eq_none (show bs.length ≤ x - a by omega)]

theorem Memory.read_write_outside (m : Memory) (a : Nat) (bs : Bytes) (x : Nat)
    (h : x < a ∨ a + bs.length ≤ x) : (m.write a bs).read x = m.read x := by
  rw [Memory.read_write, if_neg (by omega)]

theorem Memory.read_write_inside (m : Memory) (a : Nat) (bs : Bytes) (j : Nat) (h : j < bs.length) :
    (m.write a bs).read (a + j) = some bs[j] := by
  rw [Memory.read_write, if_pos (by omega)]
  simp [h]

theorem Memory.mem_cells {a : Nat} {bs : Bytes} {c : Host.Cell} (h : c ∈ Memory.cells a bs) :
    a ≤ c.1 ∧ c.1 < a + bs.length := by
  induction bs generalizing a with
  | nil => simp [Memory.cells] at h
  | cons b bs ih =>
    rcases List.mem_cons.mp h with rfl | h
    · simp
    · have := ih h
      simp only [List.length_cons]
      omega

theorem Memory.pairwise_cells (a : Nat) (bs : Bytes) :
    (Memory.cells a bs).Pairwise (fun c d => c.1 < d.1) := by
  induction bs generalizing a with
  | nil => simp [Memory.cells]
  | cons b bs ih =>
    refine List.pairwise_cons.mpr ⟨fun d hd => ?_, ih _⟩
    have := Memory.mem_cells hd
    show a < d.1
    omega

/-- A write inside BUF keeps the canonical form. -/
theorem Memory.wf_write {m : Memory} (hm : m.wf) {a : Nat} {bs : Bytes}
    (h : a + bs.length ≤ Config.bufSize) : (m.write a bs).wf := by
  obtain ⟨hp, hb⟩ := hm
  constructor
  · rw [Memory.write, List.pairwise_append, List.pairwise_append]
    refine ⟨⟨hp.filter _, Memory.pairwise_cells a bs, ?_⟩, hp.filter _, ?_⟩
    · intro c hc d hd
      have := Memory.mem_cells hd
      simp only [List.mem_filter, decide_eq_true_eq] at hc
      omega
    · intro c hc d hd
      simp only [List.mem_filter, decide_eq_true_eq] at hd
      rcases List.mem_append.mp hc with hc | hc
      · simp only [List.mem_filter, decide_eq_true_eq] at hc
        omega
      · have := Memory.mem_cells hc
        omega
  · intro c hc
    rw [Memory.write, List.mem_append, List.mem_append] at hc
    rcases hc with (hc | hc) | hc
    · exact hb c (List.mem_filter.mp hc).1
    · have := Memory.mem_cells hc
      omega
    · exact hb c (List.mem_filter.mp hc).1

/-- The memory after reset is canonical. -/
theorem Memory.wf_reset : State.reset.buf.wf := by decide

/-- What reading a byte string answers. -/
theorem Memory.readBytes_eq_some (m : Memory) (a n : Nat) (bs : Bytes) :
    m.readBytes a n = some bs ↔ bs.length = n ∧ ∀ j (h : j < bs.length), m.read (a + j) = some bs[j] := by
  induction n generalizing a bs with
  | zero =>
    simp only [Memory.readBytes, Option.some.injEq, List.length_eq_zero_iff]
    constructor
    · rintro rfl; simp
    · rintro ⟨rfl, -⟩; rfl
  | succ n ih =>
    rw [Memory.readBytes]
    constructor
    · intro h
      split at h
      · cases h
      · rename_i b hb
        obtain ⟨cs, hcs, rfl⟩ := Option.map_eq_some_iff.mp h
        obtain ⟨hl, hr⟩ := (ih _ _).mp hcs
        refine ⟨by simp [hl], fun j hj => ?_⟩
        cases j with
        | zero => simpa using hb
        | succ j => simpa [Nat.add_comm, Nat.add_left_comm] using hr j (by simpa using hj)
    · rintro ⟨hl, hr⟩
      cases bs with
      | nil => simp at hl
      | cons b bs =>
        have h0 := hr 0 (by simp)
        simp only [Nat.add_zero, List.getElem_cons_zero] at h0
        rw [h0]
        have : m.readBytes (a + 1) n = some bs := by
          refine (ih _ _).mpr ⟨by simpa using hl, fun j hj => ?_⟩
          have := hr (j + 1) (by simpa using hj)
          rwa [List.getElem_cons_succ, ← Nat.add_assoc, Nat.add_right_comm] at this
        simp [this]

theorem Memory.length_of_readBytes {m : Memory} {a n : Nat} {bs : Bytes}
    (h : m.readBytes a n = some bs) : bs.length = n := ((Memory.readBytes_eq_some ..).mp h).1

/-- Reading fails exactly when some byte holds no value. -/
theorem Memory.readBytes_eq_none (m : Memory) (a n : Nat) :
    m.readBytes a n = none ↔ ∃ j, j < n ∧ m.read (a + j) = none := by
  induction n generalizing a with
  | zero => simp [Memory.readBytes]
  | succ n ih =>
    rw [Memory.readBytes]
    split
    · rename_i h
      exact ⟨fun _ => ⟨0, by omega, h⟩, fun _ => rfl⟩
    · rename_i b h
      rw [Option.map_eq_none_iff, ih]
      constructor
      · rintro ⟨j, hj, hr⟩
        exact ⟨j + 1, by omega, by rwa [← Nat.add_assoc, Nat.add_right_comm]⟩
      · rintro ⟨j, hj, hr⟩
        cases j with
        | zero => simp [h] at hr
        | succ j => exact ⟨j, by omega, by rwa [← Nat.add_assoc, Nat.add_right_comm] at hr⟩

/-- What `withBytes` can do: go on with the bytes read, or stop on one that holds no value. -/
theorem State.withBytes_cases (s : State) (a n : Nat) (k : Bytes → Result) :
    (∃ bs, s.buf.readBytes a n = some bs ∧ s.withBytes a n k = k bs) ∨
      (s.buf.readBytes a n = none ∧ s.withBytes a n k = .fault .uninit) := by
  unfold State.withBytes
  split
  · rename_i bs h; exact .inl ⟨bs, h, rfl⟩
  · rename_i h; exact .inr ⟨h, rfl⟩

theorem State.withBytes_eq_next {s : State} {a n : Nat} {k : Bytes → Result} {t : State}
    (h : s.withBytes a n k = .next t) : ∃ bs, s.buf.readBytes a n = some bs ∧ k bs = .next t := by
  rcases s.withBytes_cases a n k with ⟨bs, hr, he⟩ | ⟨-, he⟩
  · exact ⟨bs, hr, he ▸ h⟩
  · rw [he] at h; cases h

theorem State.withBytes_of_read {s : State} {a n : Nat} {bs : Bytes} (k : Bytes → Result)
    (h : s.buf.readBytes a n = some bs) : s.withBytes a n k = k bs := by
  simp [State.withBytes, h]

theorem State.withBytes_of_unread {s : State} {a n : Nat} (k : Bytes → Result)
    (h : s.buf.readBytes a n = none) : s.withBytes a n k = .fault .uninit := by
  simp [State.withBytes, h]

/-- `inbuf` as an inequality (spec/20_memory.md R63). -/
theorem inbuf_iff (a n : Nat) : inbuf a n = true ↔ a + n ≤ 4096 :=
  decide_eq_true_iff

end Sys2Proof.Machine
end

