-- ==== Sys2Proof/Laws/State.lean ====
section
/-! SUPPORT. What each shared update of the state leaves in each field: one lemma for each field of
each update, so that no proof unfolds an update. -/

namespace Sys2Proof.Machine

variable (s : State)

/-! ## storeBytes -/

@[simp] theorem State.storeBytes_busy (a : Nat) (bs : Bytes) :
    (s.storeBytes a bs).busy = s.busy := rfl
@[simp] theorem State.storeBytes_err (a : Nat) (bs : Bytes) :
    (s.storeBytes a bs).err = s.err := rfl
@[simp] theorem State.storeBytes_drop (a : Nat) (bs : Bytes) :
    (s.storeBytes a bs).drop = s.drop := rfl
@[simp] theorem State.storeBytes_errCode (a : Nat) (bs : Bytes) :
    (s.storeBytes a bs).errCode = s.errCode := rfl
@[simp] theorem State.storeBytes_args (a : Nat) (bs : Bytes) :
    (s.storeBytes a bs).args = s.args := rfl
@[simp] theorem State.storeBytes_result (a : Nat) (bs : Bytes) :
    (s.storeBytes a bs).result = s.result := rfl
@[simp] theorem State.storeBytes_tstatus (a : Nat) (bs : Bytes) :
    (s.storeBytes a bs).tstatus = s.tstatus := rfl
@[simp] theorem State.storeBytes_enable (a : Nat) (bs : Bytes) :
    (s.storeBytes a bs).enable = s.enable := rfl
@[simp] theorem State.storeBytes_buf (a : Nat) (bs : Bytes) :
    (s.storeBytes a bs).buf = s.buf.write a bs := rfl
@[simp] theorem State.storeBytes_hash (a : Nat) (bs : Bytes) :
    (s.storeBytes a bs).hash = s.hash := rfl
@[simp] theorem State.storeBytes_sched (a : Nat) (bs : Bytes) :
    (s.storeBytes a bs).sched = s.sched := rfl
@[simp] theorem State.storeBytes_km (a : Nat) (bs : Bytes) :
    (s.storeBytes a bs).km = s.km := rfl
@[simp] theorem State.storeBytes_hsState (a : Nat) (bs : Bytes) :
    (s.storeBytes a bs).hsState = s.hsState := rfl
@[simp] theorem State.storeBytes_hsFail (a : Nat) (bs : Bytes) :
    (s.storeBytes a bs).hsFail = s.hsFail := rfl
@[simp] theorem State.storeBytes_session (a : Nat) (bs : Bytes) :
    (s.storeBytes a bs).session = s.session := rfl
@[simp] theorem State.storeBytes_curCmd (a : Nat) (bs : Bytes) :
    (s.storeBytes a bs).curCmd = s.curCmd := rfl
@[simp] theorem State.storeBytes_larg (a : Nat) (bs : Bytes) :
    (s.storeBytes a bs).larg = s.larg := rfl
@[simp] theorem State.storeBytes_ltstatus (a : Nat) (bs : Bytes) :
    (s.storeBytes a bs).ltstatus = s.ltstatus := rfl
@[simp] theorem State.storeBytes_params (a : Nat) (bs : Bytes) :
    (s.storeBytes a bs).params = s.params := rfl
@[simp] theorem State.storeBytes_draws (a : Nat) (bs : Bytes) :
    (s.storeBytes a bs).draws = s.draws := rfl
@[simp] theorem State.storeBytes_randomInput (a : Nat) (bs : Bytes) :
    (s.storeBytes a bs).randomInput = s.randomInput := rfl
@[simp] theorem State.storeBytes_script (a : Nat) (bs : Bytes) :
    (s.storeBytes a bs).script = s.script := rfl
@[simp] theorem State.storeBytes_turns (a : Nat) (bs : Bytes) :
    (s.storeBytes a bs).turns = s.turns := rfl
@[simp] theorem State.storeBytes_hostRead (a : Nat) (bs : Bytes) :
    (s.storeBytes a bs).hostRead = s.hostRead := rfl
@[simp] theorem State.storeBytes_scriptFailed (a : Nat) (bs : Bytes) :
    (s.storeBytes a bs).scriptFailed = s.scriptFailed := rfl

/-! ## completed -/

@[simp] theorem State.completed_busy (r : Nat) :
    (s.completed r).busy = false := rfl
@[simp] theorem State.completed_err (r : Nat) :
    (s.completed r).err = s.err := rfl
@[simp] theorem State.completed_drop (r : Nat) :
    (s.completed r).drop = s.drop := rfl
@[simp] theorem State.completed_errCode (r : Nat) :
    (s.completed r).errCode = s.errCode := rfl
@[simp] theorem State.completed_args (r : Nat) :
    (s.completed r).args = s.args := rfl
@[simp] theorem State.completed_result (r : Nat) :
    (s.completed r).result = BitVec.ofNat 32 r := rfl
@[simp] theorem State.completed_tstatus (r : Nat) :
    (s.completed r).tstatus = s.tstatus := rfl
@[simp] theorem State.completed_enable (r : Nat) :
    (s.completed r).enable = s.enable := rfl
@[simp] theorem State.completed_buf (r : Nat) :
    (s.completed r).buf = s.buf := rfl
@[simp] theorem State.completed_hash (r : Nat) :
    (s.completed r).hash = s.hash := rfl
@[simp] theorem State.completed_sched (r : Nat) :
    (s.completed r).sched = s.sched := rfl
@[simp] theorem State.completed_km (r : Nat) :
    (s.completed r).km = s.km := rfl
@[simp] theorem State.completed_hsState (r : Nat) :
    (s.completed r).hsState = s.hsState := rfl
@[simp] theorem State.completed_hsFail (r : Nat) :
    (s.completed r).hsFail = s.hsFail := rfl
@[simp] theorem State.completed_session (r : Nat) :
    (s.completed r).session = s.session := rfl
@[simp] theorem State.completed_curCmd (r : Nat) :
    (s.completed r).curCmd = s.curCmd := rfl
@[simp] theorem State.completed_larg (r : Nat) :
    (s.completed r).larg = s.larg := rfl
@[simp] theorem State.completed_ltstatus (r : Nat) :
    (s.completed r).ltstatus = s.ltstatus := rfl
@[simp] theorem State.completed_params (r : Nat) :
    (s.completed r).params = s.params := rfl
@[simp] theorem State.completed_draws (r : Nat) :
    (s.completed r).draws = s.draws := rfl
@[simp] theorem State.completed_randomInput (r : Nat) :
    (s.completed r).randomInput = s.randomInput := rfl
@[simp] theorem State.completed_script (r : Nat) :
    (s.completed r).script = s.script := rfl
@[simp] theorem State.completed_turns (r : Nat) :
    (s.completed r).turns = s.turns := rfl
@[simp] theorem State.completed_hostRead (r : Nat) :
    (s.completed r).hostRead = s.hostRead := rfl
@[simp] theorem State.completed_scriptFailed (r : Nat) :
    (s.completed r).scriptFailed = s.scriptFailed := rfl

/-! ## errored -/

@[simp] theorem State.errored_busy (c : ErrCode) :
    (s.errored c).busy = false := rfl
@[simp] theorem State.errored_err (c : ErrCode) :
    (s.errored c).err = true := rfl
@[simp] theorem State.errored_drop (c : ErrCode) :
    (s.errored c).drop = s.drop := rfl
@[simp] theorem State.errored_errCode (c : ErrCode) :
    (s.errored c).errCode = c := rfl
@[simp] theorem State.errored_args (c : ErrCode) :
    (s.errored c).args = s.args := rfl
@[simp] theorem State.errored_result (c : ErrCode) :
    (s.errored c).result = 0 := rfl
@[simp] theorem State.errored_tstatus (c : ErrCode) :
    (s.errored c).tstatus = s.tstatus := rfl
@[simp] theorem State.errored_enable (c : ErrCode) :
    (s.errored c).enable = s.enable := rfl
@[simp] theorem State.errored_buf (c : ErrCode) :
    (s.errored c).buf = s.buf := rfl
@[simp] theorem State.errored_hash (c : ErrCode) :
    (s.errored c).hash = s.hash := rfl
@[simp] theorem State.errored_sched (c : ErrCode) :
    (s.errored c).sched = s.sched := rfl
@[simp] theorem State.errored_km (c : ErrCode) :
    (s.errored c).km = s.km := rfl
@[simp] theorem State.errored_hsState (c : ErrCode) :
    (s.errored c).hsState = s.hsState := rfl
@[simp] theorem State.errored_hsFail (c : ErrCode) :
    (s.errored c).hsFail = s.hsFail := rfl
@[simp] theorem State.errored_session (c : ErrCode) :
    (s.errored c).session = s.session := rfl
@[simp] theorem State.errored_curCmd (c : ErrCode) :
    (s.errored c).curCmd = s.curCmd := rfl
@[simp] theorem State.errored_larg (c : ErrCode) :
    (s.errored c).larg = s.larg := rfl
@[simp] theorem State.errored_ltstatus (c : ErrCode) :
    (s.errored c).ltstatus = s.ltstatus := rfl
@[simp] theorem State.errored_params (c : ErrCode) :
    (s.errored c).params = s.params := rfl
@[simp] theorem State.errored_draws (c : ErrCode) :
    (s.errored c).draws = s.draws := rfl
@[simp] theorem State.errored_randomInput (c : ErrCode) :
    (s.errored c).randomInput = s.randomInput := rfl
@[simp] theorem State.errored_script (c : ErrCode) :
    (s.errored c).script = s.script := rfl
@[simp] theorem State.errored_turns (c : ErrCode) :
    (s.errored c).turns = s.turns := rfl
@[simp] theorem State.errored_hostRead (c : ErrCode) :
    (s.errored c).hostRead = s.hostRead := rfl
@[simp] theorem State.errored_scriptFailed (c : ErrCode) :
    (s.errored c).scriptFailed = s.scriptFailed := rfl

/-! ## enterFailed -/

@[simp] theorem State.enterFailed_busy (c : ErrCode) :
    (s.enterFailed c).busy = s.busy := rfl
@[simp] theorem State.enterFailed_err (c : ErrCode) :
    (s.enterFailed c).err = s.err := rfl
@[simp] theorem State.enterFailed_drop (c : ErrCode) :
    (s.enterFailed c).drop = s.drop := rfl
@[simp] theorem State.enterFailed_errCode (c : ErrCode) :
    (s.enterFailed c).errCode = s.errCode := rfl
@[simp] theorem State.enterFailed_args (c : ErrCode) :
    (s.enterFailed c).args = s.args := rfl
@[simp] theorem State.enterFailed_result (c : ErrCode) :
    (s.enterFailed c).result = s.result := rfl
@[simp] theorem State.enterFailed_tstatus (c : ErrCode) :
    (s.enterFailed c).tstatus = s.tstatus := rfl
@[simp] theorem State.enterFailed_enable (c : ErrCode) :
    (s.enterFailed c).enable = EnableWords.zero := rfl
@[simp] theorem State.enterFailed_buf (c : ErrCode) :
    (s.enterFailed c).buf = s.buf := rfl
@[simp] theorem State.enterFailed_hash (c : ErrCode) :
    (s.enterFailed c).hash = s.hash := rfl
@[simp] theorem State.enterFailed_sched (c : ErrCode) :
    (s.enterFailed c).sched = s.sched := rfl
@[simp] theorem State.enterFailed_km (c : ErrCode) :
    (s.enterFailed c).km = s.km := rfl
@[simp] theorem State.enterFailed_hsState (c : ErrCode) :
    (s.enterFailed c).hsState = .failed := rfl
@[simp] theorem State.enterFailed_hsFail (c : ErrCode) :
    (s.enterFailed c).hsFail = c := rfl
@[simp] theorem State.enterFailed_session (c : ErrCode) :
    (s.enterFailed c).session = Session.zero := rfl
@[simp] theorem State.enterFailed_curCmd (c : ErrCode) :
    (s.enterFailed c).curCmd = s.curCmd := rfl
@[simp] theorem State.enterFailed_larg (c : ErrCode) :
    (s.enterFailed c).larg = s.larg := rfl
@[simp] theorem State.enterFailed_ltstatus (c : ErrCode) :
    (s.enterFailed c).ltstatus = s.ltstatus := rfl
@[simp] theorem State.enterFailed_params (c : ErrCode) :
    (s.enterFailed c).params = s.params := rfl
@[simp] theorem State.enterFailed_draws (c : ErrCode) :
    (s.enterFailed c).draws = s.draws := rfl
@[simp] theorem State.enterFailed_randomInput (c : ErrCode) :
    (s.enterFailed c).randomInput = s.randomInput := rfl
@[simp] theorem State.enterFailed_script (c : ErrCode) :
    (s.enterFailed c).script = s.script := rfl
@[simp] theorem State.enterFailed_turns (c : ErrCode) :
    (s.enterFailed c).turns = s.turns := rfl
@[simp] theorem State.enterFailed_hostRead (c : ErrCode) :
    (s.enterFailed c).hostRead = s.hostRead := rfl
@[simp] theorem State.enterFailed_scriptFailed (c : ErrCode) :
    (s.enterFailed c).scriptFailed = s.scriptFailed := rfl

/-! ## hsFailed -/

@[simp] theorem State.hsFailed_busy (c : ErrCode) :
    (s.hsFailed c).busy = false := rfl
@[simp] theorem State.hsFailed_err (c : ErrCode) :
    (s.hsFailed c).err = true := rfl
@[simp] theorem State.hsFailed_drop (c : ErrCode) :
    (s.hsFailed c).drop = s.drop := rfl
@[simp] theorem State.hsFailed_errCode (c : ErrCode) :
    (s.hsFailed c).errCode = c := rfl
@[simp] theorem State.hsFailed_args (c : ErrCode) :
    (s.hsFailed c).args = s.args := rfl
@[simp] theorem State.hsFailed_result (c : ErrCode) :
    (s.hsFailed c).result = 0 := rfl
@[simp] theorem State.hsFailed_tstatus (c : ErrCode) :
    (s.hsFailed c).tstatus = s.tstatus := rfl
@[simp] theorem State.hsFailed_enable (c : ErrCode) :
    (s.hsFailed c).enable = EnableWords.zero := rfl
@[simp] theorem State.hsFailed_buf (c : ErrCode) :
    (s.hsFailed c).buf = s.buf := rfl
@[simp] theorem State.hsFailed_hash (c : ErrCode) :
    (s.hsFailed c).hash = s.hash := rfl
@[simp] theorem State.hsFailed_sched (c : ErrCode) :
    (s.hsFailed c).sched = s.sched := rfl
@[simp] theorem State.hsFailed_km (c : ErrCode) :
    (s.hsFailed c).km = s.km := rfl
@[simp] theorem State.hsFailed_hsState (c : ErrCode) :
    (s.hsFailed c).hsState = .failed := rfl
@[simp] theorem State.hsFailed_hsFail (c : ErrCode) :
    (s.hsFailed c).hsFail = c := rfl
@[simp] theorem State.hsFailed_session (c : ErrCode) :
    (s.hsFailed c).session = Session.zero := rfl
@[simp] theorem State.hsFailed_curCmd (c : ErrCode) :
    (s.hsFailed c).curCmd = s.curCmd := rfl
@[simp] theorem State.hsFailed_larg (c : ErrCode) :
    (s.hsFailed c).larg = s.larg := rfl
@[simp] theorem State.hsFailed_ltstatus (c : ErrCode) :
    (s.hsFailed c).ltstatus = s.ltstatus := rfl
@[simp] theorem State.hsFailed_params (c : ErrCode) :
    (s.hsFailed c).params = s.params := rfl
@[simp] theorem State.hsFailed_draws (c : ErrCode) :
    (s.hsFailed c).draws = s.draws := rfl
@[simp] theorem State.hsFailed_randomInput (c : ErrCode) :
    (s.hsFailed c).randomInput = s.randomInput := rfl
@[simp] theorem State.hsFailed_script (c : ErrCode) :
    (s.hsFailed c).script = s.script := rfl
@[simp] theorem State.hsFailed_turns (c : ErrCode) :
    (s.hsFailed c).turns = s.turns := rfl
@[simp] theorem State.hsFailed_hostRead (c : ErrCode) :
    (s.hsFailed c).hostRead = s.hostRead := rfl
@[simp] theorem State.hsFailed_scriptFailed (c : ErrCode) :
    (s.hsFailed c).scriptFailed = s.scriptFailed := rfl

/-! ## acceptCommand -/

@[simp] theorem State.acceptCommand_busy (v : Word) :
    (s.acceptCommand v).busy = true := rfl
@[simp] theorem State.acceptCommand_err (v : Word) :
    (s.acceptCommand v).err = false := rfl
@[simp] theorem State.acceptCommand_drop (v : Word) :
    (s.acceptCommand v).drop = false := rfl
@[simp] theorem State.acceptCommand_errCode (v : Word) :
    (s.acceptCommand v).errCode = .ok := rfl
@[simp] theorem State.acceptCommand_args (v : Word) :
    (s.acceptCommand v).args = s.args := rfl
@[simp] theorem State.acceptCommand_result (v : Word) :
    (s.acceptCommand v).result = 0 := rfl
@[simp] theorem State.acceptCommand_tstatus (v : Word) :
    (s.acceptCommand v).tstatus = s.tstatus := rfl
@[simp] theorem State.acceptCommand_enable (v : Word) :
    (s.acceptCommand v).enable = s.enable := rfl
@[simp] theorem State.acceptCommand_buf (v : Word) :
    (s.acceptCommand v).buf = s.buf := rfl
@[simp] theorem State.acceptCommand_hash (v : Word) :
    (s.acceptCommand v).hash = s.hash := rfl
@[simp] theorem State.acceptCommand_sched (v : Word) :
    (s.acceptCommand v).sched = s.sched := rfl
@[simp] theorem State.acceptCommand_km (v : Word) :
    (s.acceptCommand v).km = s.km := rfl
@[simp] theorem State.acceptCommand_hsState (v : Word) :
    (s.acceptCommand v).hsState = s.hsState := rfl
@[simp] theorem State.acceptCommand_hsFail (v : Word) :
    (s.acceptCommand v).hsFail = s.hsFail := rfl
@[simp] theorem State.acceptCommand_session (v : Word) :
    (s.acceptCommand v).session = s.session := rfl
@[simp] theorem State.acceptCommand_curCmd (v : Word) :
    (s.acceptCommand v).curCmd = v := rfl
@[simp] theorem State.acceptCommand_larg (v : Word) :
    (s.acceptCommand v).larg = s.args := rfl
@[simp] theorem State.acceptCommand_ltstatus (v : Word) :
    (s.acceptCommand v).ltstatus = s.tstatus := rfl
@[simp] theorem State.acceptCommand_params (v : Word) :
    (s.acceptCommand v).params = s.params := rfl
@[simp] theorem State.acceptCommand_draws (v : Word) :
    (s.acceptCommand v).draws = s.draws := rfl
@[simp] theorem State.acceptCommand_randomInput (v : Word) :
    (s.acceptCommand v).randomInput = s.randomInput := rfl
@[simp] theorem State.acceptCommand_script (v : Word) :
    (s.acceptCommand v).script = s.script := rfl
@[simp] theorem State.acceptCommand_turns (v : Word) :
    (s.acceptCommand v).turns = s.turns := rfl
@[simp] theorem State.acceptCommand_hostRead (v : Word) :
    (s.acceptCommand v).hostRead = s.hostRead := rfl
@[simp] theorem State.acceptCommand_scriptFailed (v : Word) :
    (s.acceptCommand v).scriptFailed = s.scriptFailed := rfl

/-! ## afterDraw -/

@[simp] theorem State.afterDraw_busy (n : Nat) :
    (s.afterDraw n).busy = s.busy := rfl
@[simp] theorem State.afterDraw_err (n : Nat) :
    (s.afterDraw n).err = s.err := rfl
@[simp] theorem State.afterDraw_drop (n : Nat) :
    (s.afterDraw n).drop = s.drop := rfl
@[simp] theorem State.afterDraw_errCode (n : Nat) :
    (s.afterDraw n).errCode = s.errCode := rfl
@[simp] theorem State.afterDraw_args (n : Nat) :
    (s.afterDraw n).args = s.args := rfl
@[simp] theorem State.afterDraw_result (n : Nat) :
    (s.afterDraw n).result = s.result := rfl
@[simp] theorem State.afterDraw_tstatus (n : Nat) :
    (s.afterDraw n).tstatus = s.tstatus := rfl
@[simp] theorem State.afterDraw_enable (n : Nat) :
    (s.afterDraw n).enable = s.enable := rfl
@[simp] theorem State.afterDraw_buf (n : Nat) :
    (s.afterDraw n).buf = s.buf := rfl
@[simp] theorem State.afterDraw_hash (n : Nat) :
    (s.afterDraw n).hash = s.hash := rfl
@[simp] theorem State.afterDraw_sched (n : Nat) :
    (s.afterDraw n).sched = s.sched := rfl
@[simp] theorem State.afterDraw_km (n : Nat) :
    (s.afterDraw n).km = s.km := rfl
@[simp] theorem State.afterDraw_hsState (n : Nat) :
    (s.afterDraw n).hsState = s.hsState := rfl
@[simp] theorem State.afterDraw_hsFail (n : Nat) :
    (s.afterDraw n).hsFail = s.hsFail := rfl
@[simp] theorem State.afterDraw_session (n : Nat) :
    (s.afterDraw n).session = s.session := rfl
@[simp] theorem State.afterDraw_curCmd (n : Nat) :
    (s.afterDraw n).curCmd = s.curCmd := rfl
@[simp] theorem State.afterDraw_larg (n : Nat) :
    (s.afterDraw n).larg = s.larg := rfl
@[simp] theorem State.afterDraw_ltstatus (n : Nat) :
    (s.afterDraw n).ltstatus = s.ltstatus := rfl
@[simp] theorem State.afterDraw_params (n : Nat) :
    (s.afterDraw n).params = s.params := rfl
@[simp] theorem State.afterDraw_draws (n : Nat) :
    (s.afterDraw n).draws = s.draws + n := rfl
@[simp] theorem State.afterDraw_randomInput (n : Nat) :
    (s.afterDraw n).randomInput = s.randomInput.drop n := rfl
@[simp] theorem State.afterDraw_script (n : Nat) :
    (s.afterDraw n).script = s.script := rfl
@[simp] theorem State.afterDraw_turns (n : Nat) :
    (s.afterDraw n).turns = s.turns := rfl
@[simp] theorem State.afterDraw_hostRead (n : Nat) :
    (s.afterDraw n).hostRead = s.hostRead := rfl
@[simp] theorem State.afterDraw_scriptFailed (n : Nat) :
    (s.afterDraw n).scriptFailed = s.scriptFailed := rfl

/-! ## received -/

@[simp] theorem State.received_busy (v : Word) :
    (s.received v).busy = s.busy := rfl
@[simp] theorem State.received_err (v : Word) :
    (s.received v).err = s.err := rfl
@[simp] theorem State.received_drop (v : Word) :
    (s.received v).drop = s.drop := rfl
@[simp] theorem State.received_errCode (v : Word) :
    (s.received v).errCode = s.errCode := rfl
@[simp] theorem State.received_args (v : Word) :
    (s.received v).args = s.args := rfl
@[simp] theorem State.received_result (v : Word) :
    (s.received v).result = s.result := rfl
@[simp] theorem State.received_tstatus (v : Word) :
    (s.received v).tstatus = s.tstatus := rfl
@[simp] theorem State.received_enable (v : Word) :
    (s.received v).enable = s.enable := rfl
@[simp] theorem State.received_buf (v : Word) :
    (s.received v).buf = s.buf := rfl
@[simp] theorem State.received_hash (v : Word) :
    (s.received v).hash = s.hash := rfl
@[simp] theorem State.received_sched (v : Word) :
    (s.received v).sched = s.sched := rfl
@[simp] theorem State.received_km (v : Word) :
    (s.received v).km = s.km := rfl
@[simp] theorem State.received_hsState (v : Word) :
    (s.received v).hsState = s.hsState := rfl
@[simp] theorem State.received_hsFail (v : Word) :
    (s.received v).hsFail = s.hsFail := rfl
@[simp] theorem State.received_session (v : Word) :
    (s.received v).session = s.session := rfl
@[simp] theorem State.received_curCmd (v : Word) :
    (s.received v).curCmd = s.curCmd := rfl
@[simp] theorem State.received_larg (v : Word) :
    (s.received v).larg = s.larg := rfl
@[simp] theorem State.received_ltstatus (v : Word) :
    (s.received v).ltstatus = s.ltstatus := rfl
@[simp] theorem State.received_params (v : Word) :
    (s.received v).params = s.params := rfl
@[simp] theorem State.received_draws (v : Word) :
    (s.received v).draws = s.draws := rfl
@[simp] theorem State.received_randomInput (v : Word) :
    (s.received v).randomInput = s.randomInput := rfl
@[simp] theorem State.received_script (v : Word) :
    (s.received v).script = s.script := rfl
@[simp] theorem State.received_turns (v : Word) :
    (s.received v).turns = s.turns := rfl
@[simp] theorem State.received_hostRead (v : Word) :
    (s.received v).hostRead = v := rfl
@[simp] theorem State.received_scriptFailed (v : Word) :
    (s.received v).scriptFailed = s.scriptFailed := rfl

/-! ## softReset -/

@[simp] theorem State.softReset_busy :
    s.softReset.busy = false := rfl
@[simp] theorem State.softReset_err :
    s.softReset.err = false := rfl
@[simp] theorem State.softReset_drop :
    s.softReset.drop = false := rfl
@[simp] theorem State.softReset_errCode :
    s.softReset.errCode = .ok := rfl
@[simp] theorem State.softReset_args :
    s.softReset.args = Args.zero := rfl
@[simp] theorem State.softReset_result :
    s.softReset.result = 0 := rfl
@[simp] theorem State.softReset_tstatus :
    s.softReset.tstatus = 0 := rfl
@[simp] theorem State.softReset_enable :
    s.softReset.enable = EnableWords.zero := rfl
@[simp] theorem State.softReset_buf :
    s.softReset.buf = s.buf := rfl
@[simp] theorem State.softReset_hash :
    s.softReset.hash = HashState.initial := rfl
@[simp] theorem State.softReset_sched :
    s.softReset.sched = Sched.initial := rfl
@[simp] theorem State.softReset_km :
    s.softReset.km = KeyMaterial.initial := rfl
@[simp] theorem State.softReset_hsState :
    s.softReset.hsState = .idle := rfl
@[simp] theorem State.softReset_hsFail :
    s.softReset.hsFail = .ok := rfl
@[simp] theorem State.softReset_session :
    s.softReset.session = Session.zero := rfl
@[simp] theorem State.softReset_curCmd :
    s.softReset.curCmd = 0 := rfl
@[simp] theorem State.softReset_larg :
    s.softReset.larg = Args.zero := rfl
@[simp] theorem State.softReset_ltstatus :
    s.softReset.ltstatus = 0 := rfl
@[simp] theorem State.softReset_params :
    s.softReset.params = s.params := rfl
@[simp] theorem State.softReset_draws :
    s.softReset.draws = s.draws := rfl
@[simp] theorem State.softReset_randomInput :
    s.softReset.randomInput = s.randomInput := rfl
@[simp] theorem State.softReset_script :
    s.softReset.script = s.script := rfl
@[simp] theorem State.softReset_turns :
    s.softReset.turns = s.turns := rfl
@[simp] theorem State.softReset_hostRead :
    s.softReset.hostRead = s.hostRead := rfl
@[simp] theorem State.softReset_scriptFailed :
    s.softReset.scriptFailed = s.scriptFailed := rfl

/-! ## popTurn -/

@[simp] theorem State.popTurn_busy : s.popTurn.busy = s.busy := by
  unfold State.popTurn; split <;> rfl
@[simp] theorem State.popTurn_err : s.popTurn.err = s.err := by
  unfold State.popTurn; split <;> rfl
@[simp] theorem State.popTurn_drop : s.popTurn.drop = s.drop := by
  unfold State.popTurn; split <;> rfl
@[simp] theorem State.popTurn_errCode : s.popTurn.errCode = s.errCode := by
  unfold State.popTurn; split <;> rfl
@[simp] theorem State.popTurn_args : s.popTurn.args = s.args := by
  unfold State.popTurn; split <;> rfl
@[simp] theorem State.popTurn_result : s.popTurn.result = s.result := by
  unfold State.popTurn; split <;> rfl
@[simp] theorem State.popTurn_tstatus : s.popTurn.tstatus = s.tstatus := by
  unfold State.popTurn; split <;> rfl
@[simp] theorem State.popTurn_enable : s.popTurn.enable = s.enable := by
  unfold State.popTurn; split <;> rfl
@[simp] theorem State.popTurn_buf : s.popTurn.buf = s.buf := by
  unfold State.popTurn; split <;> rfl
@[simp] theorem State.popTurn_hash : s.popTurn.hash = s.hash := by
  unfold State.popTurn; split <;> rfl
@[simp] theorem State.popTurn_sched : s.popTurn.sched = s.sched := by
  unfold State.popTurn; split <;> rfl
@[simp] theorem State.popTurn_km : s.popTurn.km = s.km := by
  unfold State.popTurn; split <;> rfl
@[simp] theorem State.popTurn_hsState : s.popTurn.hsState = s.hsState := by
  unfold State.popTurn; split <;> rfl
@[simp] theorem State.popTurn_hsFail : s.popTurn.hsFail = s.hsFail := by
  unfold State.popTurn; split <;> rfl
@[simp] theorem State.popTurn_session : s.popTurn.session = s.session := by
  unfold State.popTurn; split <;> rfl
@[simp] theorem State.popTurn_curCmd : s.popTurn.curCmd = s.curCmd := by
  unfold State.popTurn; split <;> rfl
@[simp] theorem State.popTurn_larg : s.popTurn.larg = s.larg := by
  unfold State.popTurn; split <;> rfl
@[simp] theorem State.popTurn_ltstatus : s.popTurn.ltstatus = s.ltstatus := by
  unfold State.popTurn; split <;> rfl
@[simp] theorem State.popTurn_params : s.popTurn.params = s.params := by
  unfold State.popTurn; split <;> rfl
@[simp] theorem State.popTurn_draws : s.popTurn.draws = s.draws := by
  unfold State.popTurn; split <;> rfl
@[simp] theorem State.popTurn_randomInput : s.popTurn.randomInput = s.randomInput := by
  unfold State.popTurn; split <;> rfl
@[simp] theorem State.popTurn_script : s.popTurn.script = s.script := by
  unfold State.popTurn; split <;> rfl
theorem State.popTurn_turns :
    s.popTurn.turns = if s.busy then s.turns.tail else s.turns := by
  unfold State.popTurn; split <;> rfl
@[simp] theorem State.popTurn_hostRead : s.popTurn.hostRead = s.hostRead := by
  unfold State.popTurn; split <;> rfl
@[simp] theorem State.popTurn_scriptFailed : s.popTurn.scriptFailed = s.scriptFailed := by
  unfold State.popTurn; split <;> rfl

/-! ## Operands -/

@[simp] theorem State.popTurn_argument0 : s.popTurn.arg0 = s.arg0 := by
  simp [State.arg0]
@[simp] theorem State.popTurn_argument1 : s.popTurn.arg1 = s.arg1 := by
  simp [State.arg1]
@[simp] theorem State.popTurn_argument2 : s.popTurn.arg2 = s.arg2 := by
  simp [State.arg2]
@[simp] theorem State.popTurn_argument3 : s.popTurn.arg3 = s.arg3 := by
  simp [State.arg3]
@[simp] theorem State.popTurn_argument4 : s.popTurn.arg4 = s.arg4 := by
  simp [State.arg4]

end Sys2Proof.Machine
end

