-- ==== Sys2Proof/Laws/Operands.lean ====
section
/-! SUPPORT. Reading an operand and storing a result, in the words the statements use: what BUF holds
and what a store leaves. -/

namespace Sys2Proof.Machine

/-- BUF holds the bytes exactly when reading them answers them. -/
theorem Memory.readBytes_iff_holds (m : Memory) (a : Nat) (bs : Bytes) :
    m.readBytes a bs.length = some bs ↔ m.Holds a bs := by
  rw [Memory.readBytes_eq_some]
  exact ⟨fun h => h.2, fun h => ⟨rfl, h⟩⟩

theorem Memory.Holds.readBytes {m : Memory} {a n : Nat} {bs : Bytes} (h : m.Holds a bs)
    (hl : bs.length = n) : m.readBytes a n = some bs :=
  hl ▸ (Memory.readBytes_iff_holds ..).mpr h

/-- The cells of a byte string hold it. -/
theorem Memory.holds_cells (a : Nat) (bs : Bytes) : (Memory.cells a bs).Holds a bs := by
  intro j h
  rw [Memory.read_cells, if_pos (Nat.le_add_right a j), Nat.add_sub_cancel_left,
    List.getElem?_eq_getElem h]

/-- A write stores its bytes and nothing else. -/
theorem Memory.stored_write (m : Memory) (a : Nat) (bs : Bytes) : m.Stored (m.write a bs) a bs :=
  ⟨fun j h => Memory.read_write_inside m a bs j h, fun x h => Memory.read_write_outside m a bs x h⟩

/-- What is stored can be read back. -/
theorem Memory.Stored.holds {m m' : Memory} {a : Nat} {bs : Bytes} (h : m.Stored m' a bs) :
    m'.Holds a bs := h.1

theorem State.withBytes_of_holds {s : State} {a n : Nat} {bs : Bytes} (k : Bytes → Result)
    (h : s.buf.Holds a bs) (hl : bs.length = n) : s.withBytes a n k = k bs :=
  State.withBytes_of_read k (h.readBytes hl)

/-- What reading the optional operand can do: it is absent, or it is 16 bytes of BUF, or one of them
holds no value. -/
theorem State.withOptional_cases (s : State) (present : Bool) (k : Option Bytes → Result) :
    (present = false ∧ s.withOptional present k = k none) ∨
      (present = true ∧ ∃ bs, s.buf.readBytes s.arg4 16 = some bs ∧
        s.withOptional present k = k (some bs)) ∨
      (present = true ∧ s.buf.readBytes s.arg4 16 = none ∧
        s.withOptional present k = .fault .uninit) := by
  cases present with
  | false => exact .inl ⟨rfl, rfl⟩
  | true =>
    rcases s.withBytes_cases s.arg4 16 (fun bs => k (some bs)) with ⟨bs, hr, he⟩ | ⟨hr, he⟩
    · exact .inr (.inl ⟨rfl, bs, hr, he⟩)
    · exact .inr (.inr ⟨rfl, hr, he⟩)

theorem State.withOptional_eq_next {s : State} {present : Bool} {k : Option Bytes → Result}
    {t : State} (h : s.withOptional present k = .next t) :
    (present = false ∧ k none = .next t) ∨
      (present = true ∧ ∃ bs, s.buf.readBytes s.arg4 16 = some bs ∧ k (some bs) = .next t) := by
  rcases s.withOptional_cases present k with ⟨hp, he⟩ | ⟨hp, bs, hr, he⟩ | ⟨-, -, he⟩
  · exact .inl ⟨hp, he ▸ h⟩
  · exact .inr ⟨hp, bs, hr, he ▸ h⟩
  · rw [he] at h; cases h

theorem State.withOptional_some {s : State} {bs : Bytes} (k : Option Bytes → Result)
    (h : s.buf.Holds s.arg4 bs) (hl : bs.length = 16) : s.withOptional true k = k (some bs) :=
  State.withBytes_of_holds (fun bs => k (some bs)) h hl

@[simp] theorem State.withOptional_false (s : State) (k : Option Bytes → Result) :
    s.withOptional false k = k none := rfl

theorem inbuf_eq_false_iff (a n : Nat) : inbuf a n = false ↔ 4096 < a + n := by
  rw [← Bool.not_eq_true, inbuf_iff, Nat.not_le]

/-- When the checks of a single-block command pass. -/
theorem blockCheck_eq_none (s : State) (seeded : Bool) :
    blockCheck s seeded = none ↔ s.sched.valid = true ∧ inbuf s.arg0 16 = true ∧
      inbuf s.arg2 16 = true ∧ (seeded = true → inbuf s.arg4 16 = true) := by
  cases hv : s.sched.valid <;> cases ha : inbuf s.arg0 16 <;> cases hb : inbuf s.arg2 16 <;>
    cases seeded <;> cases hc : inbuf s.arg4 16 <;>
    simp [blockCheck, State.optionalInbuf, hv, ha, hb, hc]

/-- What a failed check of a single-block command reports. -/
theorem blockCheck_eq_some {s : State} {seeded : Bool} {code : ErrCode}
    (h : blockCheck s seeded = some code) :
    (s.sched.valid = false ∧ code = .noSched) ∨ (s.sched.valid = true ∧ code = .badArg) := by
  cases hv : s.sched.valid <;> cases ha : inbuf s.arg0 16 <;> cases hb : inbuf s.arg2 16 <;>
    cases seeded <;> cases hc : inbuf s.arg4 16 <;>
    simp_all [blockCheck, State.optionalInbuf]

/-- When the checks of a chained command pass. -/
theorem chainCheck_eq_none (s : State) (zeroIv : Bool) :
    chainCheck s zeroIv = none ↔ s.sched.valid = true ∧ inbuf s.arg0 s.arg1 = true ∧
      inbuf s.arg2 s.arg1 = true ∧ (zeroIv = false → inbuf s.arg4 16 = true) := by
  cases hv : s.sched.valid <;> cases ha : inbuf s.arg0 s.arg1 <;>
    cases hb : inbuf s.arg2 s.arg1 <;> cases zeroIv <;> cases hc : inbuf s.arg4 16 <;>
    simp [chainCheck, State.optionalInbuf, hv, ha, hb, hc]

/-- What a failed check of a chained command reports. -/
theorem chainCheck_eq_some {s : State} {zeroIv : Bool} {code : ErrCode}
    (h : chainCheck s zeroIv = some code) :
    (s.sched.valid = false ∧ code = .noSched) ∨ (s.sched.valid = true ∧ code = .badArg) := by
  cases hv : s.sched.valid <;> cases ha : inbuf s.arg0 s.arg1 <;>
    cases hb : inbuf s.arg2 s.arg1 <;> cases zeroIv <;> cases hc : inbuf s.arg4 16 <;>
    simp_all [chainCheck, State.optionalInbuf]

end Sys2Proof.Machine
end

