-- ==== Sys2Proof/Laws/PerInstr.lean ====
section
/-! SUPPORT. The family LegalWord: the word of every command passes the four checks that
spec/30_encoding.md R93 makes of a command word. -/

namespace Sys2Proof.Laws.LegalWord

/-- The word of command `i` is legal (spec/30_encoding.md R93), and OP stands in its bits 7:0 (R90). -/
def Statement (i : Instr) : Prop :=
  (CommandFields.ofWord (encode i)).wellFormed = true ∧
    (CommandFields.ofWord (encode i)).op = i.opcode

theorem nop : Statement .nop := by constructor <;> decide
theorem hashReset : Statement .hashReset := by constructor <;> decide
theorem hashUpdate : Statement .hashUpdate := by constructor <;> decide
theorem hashFinal : Statement .hashFinal := by constructor <;> decide
theorem hashExpand : Statement .hashExpand := by constructor <;> decide
theorem aesKeysched : Statement .aesKeysched := by constructor <;> decide
theorem aesEncBlock (seeded : Bool) : Statement (.aesEncBlock seeded) := by cases seeded <;> constructor <;> decide
theorem aesDecBlock (seeded : Bool) : Statement (.aesDecBlock seeded) := by cases seeded <;> constructor <;> decide
theorem aesChainEnc (zeroIv : Bool) : Statement (.aesChainEnc zeroIv) := by cases zeroIv <;> constructor <;> decide
theorem aesChainDec (zeroIv : Bool) : Statement (.aesChainDec zeroIv) := by cases zeroIv <;> constructor <;> decide
theorem aesMac : Statement .aesMac := by constructor <;> decide
theorem rsaPriv : Statement .rsaPriv := by constructor <;> decide
theorem rsaPub : Statement .rsaPub := by constructor <;> decide
theorem kmLoad : Statement .kmLoad := by constructor <;> decide
theorem hsStart : Statement .hsStart := by constructor <;> decide
theorem hsCert : Statement .hsCert := by constructor <;> decide
theorem hsResponse : Statement .hsResponse := by constructor <;> decide
theorem hsConfirm : Statement .hsConfirm := by constructor <;> decide
theorem hsOpen : Statement .hsOpen := by constructor <;> decide
theorem hsAbort : Statement .hsAbort := by constructor <;> decide

end Sys2Proof.Laws.LegalWord
end

