-- ==== Sys2Proof/Laws/Step.lean ====
section
/-! SUPPORT. Once and for all: who moves, what a host access can do, and what a step can do. -/

namespace Sys2Proof.Machine

/-- The Engine moves exactly when a command is in flight and the Host does not take the step. -/
theorem State.mover_eq_engine (s : State) :
    s.mover = some .engine ↔ s.busy = true ∧ (s.script = [] ∨ s.turns.head? ≠ some .host) := by
  unfold State.mover
  cases s.busy with
  | false => cases s.script <;> simp
  | true =>
    rcases s.turns with _ | ⟨_ | _, _⟩ <;> cases s.script <;> simp

/-- The Host moves exactly when it has an access to make and no command in flight takes the step. -/
theorem State.mover_eq_host (s : State) :
    s.mover = some .host ↔ s.script ≠ [] ∧ (s.busy = true → s.turns.head? = some .host) := by
  unfold State.mover
  cases s.busy with
  | false => cases s.script <;> simp
  | true =>
    rcases s.turns with _ | ⟨_ | _, _⟩ <;> cases s.script <;> simp

/-- Nobody moves exactly when no command is in flight and the Host has no access to make. -/
theorem State.mover_eq_none (s : State) : s.mover = none ↔ s.busy = false ∧ s.script = [] := by
  unfold State.mover
  cases s.busy with
  | false => cases s.script <;> simp
  | true =>
    rcases s.turns with _ | ⟨_ | _, _⟩ <;> cases s.script <;> simp

/-- What a step can do: nothing, one host access, one command, or the completion of an illegal
word. -/
theorem step_cases (s : State) :
    (s.busy = false ∧ s.script = [] ∧ step s = .next s) ∨
    (∃ op rest, s.script = op :: rest ∧
      step s = State.hostAccess { s.popTurn with script := rest } op) ∨
    (s.busy = true ∧ ∃ i, decode s.curCmd = .ok i ∧
      step s = exec i { s with turns := s.turns.tail }) ∨
    (s.busy = true ∧ ∃ e, decode s.curCmd = .error e ∧
      step s = .next (State.errored { s with turns := s.turns.tail } .illegalCmd)) := by
  rcases hm : s.mover with _ | (_ | _)
  · have h := s.mover_eq_none.mp hm
    exact .inl ⟨h.1, h.2, by simp [step, hm]⟩
  · have h := s.mover_eq_host.mp hm
    obtain ⟨op, rest, hs⟩ := List.exists_cons_of_ne_nil h.1
    refine .inr (.inl ⟨op, rest, hs, ?_⟩)
    simp [step, hm, hostStep, hs]
  · have h := s.mover_eq_engine.mp hm
    have hp : s.popTurn = { s with turns := s.turns.tail } := by simp [State.popTurn, h.1]
    rcases hd : decode s.curCmd with e | i
    · exact .inr (.inr (.inr ⟨h.1, e, rfl, by simp [step, hm, engineStep, hp, hd]⟩))
    · exact .inr (.inr (.inl ⟨h.1, i, rfl, by simp [step, hm, engineStep, hp, hd]⟩))

/-- What a host access that does not stop can do. A load changes what the Host has read and the draws; a
store writes a register or, with no command in flight, bytes of BUF; a poll changes what the Host has
read and the script. -/
theorem State.hostAccess_eq_next {s : State} {op : HostOp} {t : State}
    (h : s.hostAccess op = .next t) :
    (∃ width addr, op = .load width addr ∧
      t = { s with hostRead := t.hostRead, draws := t.draws, randomInput := t.randomInput }) ∨
    (∃ addr off v, op = .store 4 addr v ∧ addr.offset s.params = some off ∧ off < 0x1000 ∧
      off % 4 = 0 ∧ t = s.writeRegister off v) ∨
    (∃ width addr k v, op = .store width addr v ∧ addr.offset s.params = some (0x1000 + k) ∧
      s.busy = false ∧ k + width ≤ 4096 ∧ t = s.storeBytes k (leBytes v.toNat width)) ∨
    (op = .wait ∧ t = { s with hostRead := t.hostRead, script := t.script }) ∨
    (op = .check ∧ t = { s with hostRead := t.hostRead, scriptFailed := t.scriptFailed }) := by
  have hoff : ∀ {addr : HostAddr} {off}, addr.offset s.params = some off → off < 0x2000 := by
    intro addr off ho
    cases addr <;> simp only [HostAddr.offset, Config.windowSize] at ho <;> split at ho <;>
      simp only [Option.some.injEq, reduceCtorEq] at ho <;> omega
  cases op with
  | load width addr =>
    refine .inl ⟨width, addr, rfl, ?_⟩
    simp only [State.hostAccess, State.hostLoad] at h
    split at h
    · cases h
    · split at h
      · cases h
      · split at h
        · cases h; rfl
        · unfold State.loadBuf at h
          split at h
          · cases h; rfl
          · obtain ⟨bs, -, hk⟩ := State.withBytes_eq_next h
            cases hk; rfl
  | store width addr v =>
    simp only [State.hostAccess, State.hostStore] at h
    split at h
    · cases h
    · rename_i off ho
      have hlt := hoff ho
      split at h
      · cases h
      · rename_i hf
        split at h
        · rename_i hr
          simp only [accessFault, hr, if_true] at hf
          split at hf
          · rename_i hw
            obtain ⟨rfl, hm⟩ := hw
            cases h
            exact .inr (.inl ⟨addr, off, v, rfl, ho, hr, hm, rfl⟩)
          · cases hf
        · rename_i hr
          simp only [accessFault, hr, if_false] at hf
          split at hf
          · rename_i hw
            unfold State.storeBuf at h
            split at h
            · cases h
            · rename_i hb
              cases h
              simp only [Config.bufWindow, Nat.not_lt] at hr
              refine .inr (.inr (.inl ⟨width, addr, off - 0x1000, v, rfl, ?_, by simpa using hb, ?_,
                rfl⟩))
              · rw [ho, Nat.add_sub_cancel' hr]
              · obtain ⟨rfl | rfl | rfl, hm⟩ := hw <;> omega
          · cases hf
  | wait =>
    simp only [State.hostAccess] at h
    refine .inr (.inr (.inr (.inl ⟨rfl, ?_⟩)))
    split at h <;> cases h <;> rfl
  | check =>
    cases h
    exact .inr (.inr (.inr (.inr ⟨rfl, rfl⟩)))

/-- What a store to a register can change, but for CMD and CTRL: one argument register or TSTATUS. -/
theorem State.writeRegister_cases (s : State) (off : Nat) (v : Word) :
    (off = 0x004 ∧ v.getLsbD 0 = true ∧ s.writeRegister off v = s.softReset) ∨
    (off = 0x00C ∧ s.writeRegister off v = s.writeCmd v) ∨
    s.writeRegister off v =
      { s with args := (s.writeRegister off v).args, tstatus := (s.writeRegister off v).tstatus } := by
  unfold State.writeRegister
  split
  · split
    · rename_i h; exact .inl ⟨rfl, h, rfl⟩
    · exact .inr (.inr rfl)
  · exact .inr (.inl ⟨rfl, rfl⟩)
  all_goals exact .inr (.inr rfl)

end Sys2Proof.Machine
end

