-- ==== Sys2Proof/Tests/Slice0.lean ====
section
/-! SUPPORT. Tests on fixed values, whose expected results come from spec/, and for each statement with
hypotheses a witness that meets them. -/

namespace Sys2Proof.Tests

open Machine

set_option maxRecDepth 100000

/-! ## Small states -/

/-- Parameters, named so that a state can be written out (log 4). -/
def params : Params :=
  { sigWrapOffset := 8, sigMarker := 0x01, sigTrailer := 0xBC, hsIv := Vector.replicate 16 0,
    macCountOffset := 0, baseWord := 0 }

/-- A state with a command in flight on latched arguments, and bytes in BUF from offset `k` on. -/
def inFlight (k : Nat) (bs : Bytes) (a0 a1 a2 a3 a4 : Word) : State :=
  { State.reset with
    busy := true, buf := Memory.cells k bs, params := params
    larg := { arg0 := a0, arg1 := a1, arg2 := a2, arg3 := a3, arg4 := a4 } }

/-- The bytes `a, a + 1, …` of the spec's examples. -/
def count (a n : Nat) : Bytes := (List.range n).map fun i => BitVec.ofNat 8 (a + i)

/-- The toy key of spec/42_rsa.md R192. -/
def toyKey : KeyMaterial :=
  { valid := true, encKey := zeros 16, e := 17, n := 3233, d := 2753, cert := zeros 629,
    certLen := 629 }

/-- The 128-bit key of the examples of spec/41_cipher.md R153 to R171. -/
def exampleKey : Bytes :=
  [0x2b, 0x7e, 0x15, 0x16, 0x28, 0xae, 0xd2, 0xa6, 0xab, 0xf7, 0x15, 0x88, 0x09, 0xcf, 0x4f, 0x3c]

/-- A state with a schedule loaded. -/
def keyed (key : Bytes) (s : State) : State := { s with sched := { valid := true, keys := mksched key } }

/-- The `n` bytes of BUF at offset `a` after an outcome. -/
def bytesAfter (r : Result) (a n : Nat) : Option Bytes :=
  match r with
  | .next t => t.buf.readBytes a n
  | .fault _ | .refused _ => none

/-- A view of the next state of an outcome. -/
def after {α : Type} (f : State → α) (r : Result) : Option α :=
  match r with
  | .next t => some (f t)
  | .fault _ | .refused _ => none

/-! ## Well-formedness: each check refuses an ill-formed word -/

theorem test_wf_refuses_op :
    CommandFields.wellFormed { reserved := 0, z := false, s := false, op := 0x05 } = false := by decide
theorem test_wf_refuses_reserved :
    CommandFields.wellFormed { reserved := 1, z := false, s := false, op := 0x00 } = false := by decide
theorem test_wf_refuses_s :
    CommandFields.wellFormed { reserved := 0, z := false, s := true, op := 0x13 } = false := by decide
theorem test_wf_refuses_z :
    CommandFields.wellFormed { reserved := 0, z := true, s := false, op := 0x11 } = false := by decide
theorem test_wf_admits :
    CommandFields.wellFormed { reserved := 0, z := true, s := false, op := 0x14 } = true := by decide

/-! ## Decoding: every command's word, written out from spec/30_encoding.md R90 and R94 -/

theorem test_decode_nop : decode 0b00000000000000000000000000000000 = .ok .nop := by decide
theorem test_decode_hashReset : decode 0b00000000000000000000000000000001 = .ok .hashReset := by decide
theorem test_decode_hashUpdate : decode 0b00000000000000000000000000000010 = .ok .hashUpdate := by decide
theorem test_decode_hashFinal : decode 0b00000000000000000000000000000011 = .ok .hashFinal := by decide
theorem test_decode_hashExpand : decode 0b00000000000000000000000000000100 = .ok .hashExpand := by decide
theorem test_decode_aesKeysched : decode 0b00000000000000000000000000010000 = .ok .aesKeysched := by decide
theorem test_decode_aesEncBlock :
    decode 0b00000000000000000000000000010001 = .ok (.aesEncBlock false) ∧
      decode 0b00000000000000000000000100010001 = .ok (.aesEncBlock true) := by decide
theorem test_decode_aesDecBlock :
    decode 0b00000000000000000000000000010010 = .ok (.aesDecBlock false) ∧
      decode 0b00000000000000000000000100010010 = .ok (.aesDecBlock true) := by decide
theorem test_decode_aesChainEnc :
    decode 0b00000000000000000000000000010011 = .ok (.aesChainEnc false) ∧
      decode 0b00000000000000000000001000010011 = .ok (.aesChainEnc true) := by decide
theorem test_decode_aesChainDec :
    decode 0b00000000000000000000000000010100 = .ok (.aesChainDec false) ∧
      decode 0b00000000000000000000001000010100 = .ok (.aesChainDec true) := by decide
theorem test_decode_aesMac : decode 0b00000000000000000000000000010101 = .ok .aesMac := by decide
theorem test_decode_rsaPriv : decode 0b00000000000000000000000000100000 = .ok .rsaPriv := by decide
theorem test_decode_rsaPub : decode 0b00000000000000000000000000100001 = .ok .rsaPub := by decide
theorem test_decode_kmLoad : decode 0b00000000000000000000000000110000 = .ok .kmLoad := by decide
theorem test_decode_hsStart : decode 0b00000000000000000000000001000000 = .ok .hsStart := by decide
theorem test_decode_hsCert : decode 0b00000000000000000000000001000001 = .ok .hsCert := by decide
theorem test_decode_hsResponse : decode 0b00000000000000000000000001000010 = .ok .hsResponse := by decide
theorem test_decode_hsConfirm : decode 0b00000000000000000000000001000011 = .ok .hsConfirm := by decide
theorem test_decode_hsOpen : decode 0b00000000000000000000000001000100 = .ok .hsOpen := by decide
theorem test_decode_hsAbort : decode 0b00000000000000000000000001000101 = .ok .hsAbort := by decide
theorem test_decode_refuses :
    decode 0x46 = .error .unassignedOp ∧ decode 0x110 = .error .seedBit ∧
      decode 0x211 = .error .zeroBit ∧ decode 0x80000000 = .error .reservedBits := by decide
theorem test_table_word : decodeTableWord 32 0x214 = some (.aesChainDec true) := by decide
theorem test_fetch_runs :
    after (fun t => (t.busy, t.errCode)) (step (State.reset.withFetchWord 32 0x21)) =
      some (false, .noKeymat) := by decide

/-! ## The examples of the command rules -/

/-- spec/40_hash.md R118: after the 3 bytes 61 62 63, HASH.CNT = 24. -/
theorem test_hash_update :
    after (fun t => (t.hash.cnt, t.hash.pending))
      (exec .hashUpdate (inFlight 4093 [0x61, 0x62, 0x63] 4093 3 0 0 0)) = some (24, 3) := by decide +kernel

/-- spec/40_hash.md R119: the digest of "abc". -/
theorem test_hash_final :
    bytesAfter (exec .hashFinal { inFlight 0 [] 0 0 0 0 0 with
        hash := hupdate HashState.initial [0x61, 0x62, 0x63] }) 0 20 =
      some [0xa9, 0x99, 0x3e, 0x36, 0x47, 0x06, 0x81, 0x6a, 0xba, 0x3e, 0x25, 0x71, 0x78, 0x50, 0xc2,
        0x6c, 0x9c, 0xd0, 0xd8, 0x9d] := by decide +kernel

/-- spec/40_hash.md R120: the expansion of "abc" to 21 bytes, over its own message. -/
theorem test_hash_expand :
    bytesAfter (exec .hashExpand (inFlight 0 [0x61, 0x62, 0x63] 0 3 0 21 0)) 0 21 =
      some [0xa0, 0x3e, 0xb8, 0xac, 0x3e, 0x6a, 0xd8, 0x09, 0x80, 0x5e, 0xc4, 0x89, 0xce, 0x85, 0xf2,
        0xce, 0xfe, 0x8d, 0x00, 0xc6, 0x95] := by decide +kernel

/-- spec/41_cipher.md R153: EK[1] and DK[1] of the example key. -/
theorem test_aes_keysched :
    after (fun t => (t.sched.keys.nr, t.sched.keys.ekAt 1, t.sched.keys.dkAt 1))
      (exec .aesKeysched (inFlight 0 exampleKey 0 16 0 0 0)) =
      some (10,
        [0xa0, 0xfa, 0xfe, 0x17, 0x88, 0x54, 0x2c, 0xb1, 0x23, 0xa3, 0x39, 0x39, 0x2a, 0x6c, 0x76, 0x05],
        [0x2b, 0x37, 0x08, 0xa7, 0xf2, 0x62, 0xd4, 0x05, 0xbc, 0x3e, 0xbd, 0xbf, 0x4b, 0x61, 0x7d,
          0x62]) := by decide +kernel

/-- spec/41_cipher.md R160: the example block under the key 00 01 .. 0f. -/
theorem test_aes_enc_block :
    bytesAfter (exec (.aesEncBlock false) (keyed (count 0 16)
        (inFlight 0 ((List.range 16).map fun i => BitVec.ofNat 8 (17 * i)) 0 0 0 0 0))) 0 16 =
      some [0x69, 0xc4, 0xe0, 0xd8, 0x6a, 0x7b, 0x04, 0x30, 0xd8, 0xcd, 0xb7, 0x80, 0x70, 0xb4, 0xc5,
        0x5a] := by decide +kernel

/-- spec/41_cipher.md R161: the seeded decryption. -/
theorem test_aes_dec_block_seeded :
    bytesAfter (exec (.aesDecBlock true) (keyed exampleKey (inFlight 0
        ([0x39, 0x25, 0x84, 0x1d, 0x02, 0xdc, 0x09, 0xfb, 0xdc, 0x11, 0x85, 0x97, 0x19, 0x6a, 0x0b,
          0x32] ++ count 0 16) 0 0 32 0 16))) 32 16 =
      some [0x32, 0x42, 0xf4, 0xab, 0x8c, 0x5f, 0x36, 0x8a, 0x39, 0x38, 0x92, 0xa9, 0xec, 0x3a, 0x09,
        0x3b] := by decide +kernel

/-- The plaintext of spec/41_cipher.md R164 and its ciphertext. -/
def chainPlain : Bytes :=
  [0x6b, 0xc1, 0xbe, 0xe2, 0x2e, 0x40, 0x9f, 0x96, 0xe9, 0x3d, 0x7e, 0x11, 0x73, 0x93, 0x17, 0x2a]

/-- See `chainPlain`. -/
def chainCipher : Bytes :=
  [0x76, 0x49, 0xab, 0xac, 0x81, 0x19, 0xb2, 0x46, 0xce, 0xe9, 0x8e, 0x9b, 0x12, 0xe9, 0x19, 0x7d]

theorem test_aes_chain_enc :
    bytesAfter (exec (.aesChainEnc false) (keyed exampleKey
      (inFlight 0 (chainPlain ++ count 0 16) 0 16 32 0 16))) 32 16 = some chainCipher := by decide +kernel
theorem test_aes_chain_dec :
    bytesAfter (exec (.aesChainDec false) (keyed exampleKey
      (inFlight 0 (chainCipher ++ count 0 16) 0 16 32 0 16))) 32 16 = some chainPlain := by decide +kernel

/-- spec/41_cipher.md R171: the MAC of the empty seed (K2) and of a 16-byte seed (K1). -/
theorem test_aes_mac_empty :
    bytesAfter (exec .aesMac (keyed exampleKey (inFlight 0 [] 4096 0 0 0 0))) 0 16 =
      some [0xbb, 0x1d, 0x69, 0x29, 0xe9, 0x59, 0x37, 0x28, 0x7f, 0xa3, 0x7d, 0x12, 0x9b, 0x75, 0x67,
        0x46] := by decide +kernel
theorem test_aes_mac_full :
    bytesAfter (exec .aesMac (keyed exampleKey (inFlight 0 chainPlain 0 16 0 0 0))) 0 16 =
      some [0x07, 0x0a, 0x16, 0xb4, 0x6b, 0x4d, 0x41, 0x44, 0xf7, 0x9b, 0xdd, 0x9d, 0xd0, 0x4a, 0x28,
        0x7c] := by decide +kernel

/-- spec/42_rsa.md R192: with the toy key, 0a e6 in 4 bytes gives 00 00 00 41. -/
theorem test_rsa_priv :
    bytesAfter (exec .rsaPriv { inFlight 0 [0x0a, 0xe6] 0 2 0 4 0 with km := toyKey }) 0 4 =
      some [0x00, 0x00, 0x00, 0x41] := by decide +kernel

/-- spec/42_rsa.md R193: the public transform of 41 needs 2 bytes. -/
theorem test_rsa_pub :
    bytesAfter (exec .rsaPub { inFlight 0 [0x00, 0x41] 0 2 0 2 0 with km := toyKey }) 0 2 =
        some [0x0a, 0xe6] ∧
      after (fun t => (t.errCode, t.result))
        (exec .rsaPub { inFlight 0 [0x41] 0 1 0 1 0 with km := toyKey }) = some (.crypto, 0) := by
  decide +kernel

/-- spec/42_rsa.md R192, R193: an operand of length 0 gives outLen zero bytes, with an exponent 0 too. -/
theorem test_rsa_zero :
    bytesAfter (exec .rsaPriv { inFlight 0 [] 0 0 0 2 0 with km := { toyKey with d := 0 } }) 0 2 =
        some [0, 0] ∧
      bytesAfter (exec .rsaPub { inFlight 0 [] 0 0 0 2 0 with km := { toyKey with e := 0 } }) 0 2 =
        some [0, 0] := by decide +kernel

/-- The image of spec/44_keymaterial.md R261. -/
def exampleImage : Bytes :=
  zeros 16 ++ [0, 1, 0, 2, 0, 2, 0, 0] ++ ([17] ++ zeros 127) ++ ([0x0c, 0xa1] ++ zeros 126) ++
    ([0x0a, 0xc1] ++ zeros 126) ++ zeros 629

/-- spec/44_keymaterial.md R261: the example image holds the toy key. -/
theorem test_km_image :
    parseImage exampleImage =
      some { valid := true, encKey := zeros 16, e := 17, n := 3233, d := 2753, cert := [],
             certLen := 0 } := by decide +kernel
theorem test_km_locked :
    after State.status (exec .kmLoad { inFlight 0 [] 0 0 0 0 0 with km := toyKey }) =
      some 0x00010502 := by decide +kernel

/-- spec/44_keymaterial.md R265: NOP after ERR with ERRCODE 1 leaves STATUS 0. -/
theorem test_nop :
    after State.status (exec .nop
      (State.acceptCommand { State.reset with err := true, errCode := .illegalCmd } 0)) = some 0 := by
  decide +kernel

/-- spec/43_handshake.md R220: HS_START gives HS_STATUS = 1. -/
theorem test_hs_start :
    after State.hsStatus (exec .hsStart { inFlight 0 [] 0 0 0 0 0 with km := toyKey }) = some 1 := by
  decide +kernel

/-- spec/43_handshake.md R250: HS_ABORT in CertSent gives HS_STATUS = 0x00000C06 and no error. -/
theorem test_hs_abort :
    after (fun t => (t.hsStatus, t.err))
      (exec .hsAbort { inFlight 0 [] 0 0 0 0 0 with hsState := .certSent }) =
      some (0x00000C06, false) := by decide +kernel

/-- spec/43_handshake.md R240: the confirmation message under the session key 40 41 .. 4f. -/
theorem test_hs_confirm :
    bytesAfter (exec .hsConfirm { inFlight 0 [] 0 0 0 0 0 with
        hsState := .responseValidated, session := { Session.zero with skey := count 0x40 16 } }) 0 20 =
      some [0x02, 0x03, 0x00, 0x10, 0xc6, 0xd4, 0x70, 0x8c, 0x96, 0x72, 0xe4, 0x77, 0x99, 0xda, 0xbc,
        0xd1, 0xcd, 0x57, 0x03, 0xa3] := by decide +kernel

/-- spec/43_handshake.md R245: the enable words for the counter e0 e1 e2 e3. -/
theorem test_hs_open :
    after State.enable (exec .hsOpen { inFlight 0 [] 0 0 0 0 0 with
        hsState := .confirmed
        session := { Session.zero with skey := count 0x40 16, macCount := 0xe0e1e2e3 } }) =
      some { w0 := 0xdc0d6a70, w1 := 0xc8df9f80, w2 := 0xd3eae474, w3 := 0x2bfad317 } := by decide +kernel

/-- spec/43_handshake.md R214: HS_CERT in Idle is out of order. -/
theorem test_hs_cert_sequence :
    after (fun t => (t.errCode, t.hsStatus)) (exec .hsCert (inFlight 0 [] 0 0 0 0 0)) =
      some (.sequence, 0x00000806) := by decide +kernel

/-! ## Witnesses: states and operands that meet the hypotheses of the statements -/

/-- BUF with every byte written. -/
def fullBuf : Memory := Memory.cells 0 (List.replicate 4096 0)

theorem fullBuf_written (a : Nat) (h : a < 4096) : fullBuf.read a ≠ none := by
  rw [fullBuf, Memory.read_cells, if_pos (Nat.zero_le a), List.getElem?_eq_getElem (by simpa using h)]
  simp

theorem fullBuf_wf : fullBuf.wf :=
  ⟨Memory.pairwise_cells _ _, fun c hc => by
    have := Memory.mem_cells hc
    rw [List.length_replicate] at this
    exact lt_of_lt_of_eq this.2 (Nat.zero_add _)⟩

/-- IllegalWordsCompleteWithIllegalCmd: an illegal word, not yet accepted and accepted. -/
theorem witness_illegalWords :
    (∃ (s : State) (w : Word), s.busy = false ∧ ∃ e, decode w = .error e) ∧
      ∃ (s : State) (w : Word), (∃ e, decode w = .error e) ∧ s.curCmd = w :=
  ⟨⟨State.reset, 0x400, rfl, .reservedBits, by decide⟩,
    ⟨{ State.reset with curCmd := 0x46 }, 0x46, ⟨.unassignedOp, by decide⟩, rfl⟩⟩

/-- StepRunsTheDecodedCommand: a legal word with no access to make, and with one but the Engine's turn;
an illegal word with one. -/
theorem witness_stepRuns :
    (∃ (s : State) (i : Instr), s.busy = true ∧ decode s.curCmd = .ok i ∧ s.script = []) ∧
      (∃ (s : State) (i : Instr), s.busy = true ∧ decode s.curCmd = .ok i ∧
        s.script = [.wait] ∧ s.turns.head? ≠ some .host) ∧
      ∃ (s : State), s.busy = true ∧ (∃ e, decode s.curCmd = .error e) ∧
        s.script = [.wait] ∧ s.turns.head? ≠ some .host :=
  ⟨⟨{ State.reset with busy := true }, .nop, rfl, by decide, rfl⟩,
    ⟨{ State.reset with busy := true, script := [.wait], turns := [.engine] }, .nop, rfl, by decide,
      rfl, by decide⟩,
    ⟨{ State.reset with busy := true, curCmd := 0x46, script := [.wait] }, rfl,
      ⟨.unassignedOp, by decide⟩, rfl, by decide⟩⟩

/-- spec/30_encoding.md R93: an illegal word in flight completes with ILLEGAL_CMD. -/
theorem test_step_illegal :
    after State.status (step { State.reset with busy := true, curCmd := 0x211 }) =
      some 0x00000102 := by decide +kernel

/-- StepMakesTheNextHostAccess: its three cases. -/
theorem witness_stepMakes :
    (∃ (s : State) (op : HostOp) (rest : List HostOp), s.busy = false ∧ s.script = op :: rest) ∧
      (∃ s : State, s.busy = false ∧ s.script = []) ∧
      ∃ (s : State) (op : HostOp) (rest : List HostOp), s.busy = true ∧ s.script = op :: rest ∧
        s.turns.head? = some .host :=
  ⟨⟨{ State.reset with script := [.check] }, .check, [], rfl, rfl⟩, ⟨State.reset, rfl, rfl⟩,
    ⟨{ State.reset with busy := true, script := [.wait], turns := [.host] }, .wait, [], rfl, rfl, rfl⟩⟩

/-- CommandsStopOnlyOnUnwrittenBytes: an operand whose last byte alone, the last of BUF, holds no value;
an optional operand whose first byte holds none; a command that stops; and a BUF on which none does. -/
theorem witness_stops :
    (∃ (i : Instr) (s : State) (r : Nat × Nat), firstFailed (i.checks s) = none ∧ r ∈ i.inputs s ∧
      s.buf.readBytes r.1 (r.2 - 1) = some [1, 2] ∧ 2 < r.2 ∧ r.1 + 2 = 4095 ∧
      s.buf.read (r.1 + 2) = none) ∧
      (∃ (s : State) (r : Nat × Nat), firstFailed ((Instr.aesDecBlock true).checks s) = none ∧
        r ∈ (Instr.aesDecBlock true).inputs s ∧ r.1 = s.arg4 ∧ 0 < r.2 ∧
        s.buf.read (r.1 + 0) = none) ∧
      (∃ (i : Instr) (s : State) (f : Fault), exec i s = .fault f) ∧
      ∃ (i : Instr) (s : State), i.inputs s ≠ [] ∧
        ∀ r ∈ i.inputs s, ∀ j, j < r.2 → s.buf.read (r.1 + j) ≠ none :=
  ⟨⟨.hashUpdate, inFlight 4093 [1, 2] 4093 3 0 0 0, (4093, 3), by decide⟩,
    ⟨keyed exampleKey (inFlight 0 (count 0 16) 0 0 0 0 16), (16, 16), by decide⟩,
    ⟨.kmLoad, State.reset, .uninit, rfl⟩,
    ⟨.kmLoad, { State.reset with buf := fullBuf }, by decide, fun r hr j hj => by
      obtain rfl : r = (0, 1037) := List.mem_singleton.mp hr
      exact fullBuf_written _ (by simp at hj ⊢; omega)⟩⟩

/-- spec/20_memory.md R72: a command whose operand has one unwritten byte stops with F_UNINIT, and one
whose checks fail does not look at it. -/
theorem test_command_uninit :
    exec .hashUpdate (inFlight 4093 [1, 2] 4093 3 0 0 0) = .fault .uninit ∧
      after State.status (exec .hashUpdate (inFlight 4093 [1, 2] 4093 4 0 0 0)) =
        some 0x00000202 := ⟨rfl, by decide +kernel⟩

/-- CommandKeepsTheHostsRegisters, WritersOfInternalState: a command that answers a next state. -/
theorem witness_next : ∃ (i : Instr) (s t : State), exec i s = .next t :=
  ⟨.nop, State.reset, _, rfl⟩

/-- WaitEnds: a wait with the Host's turns before the Engine's. -/
theorem witness_waitEnds :
    ∃ (s : State) (rest : List HostOp), s.busy = true ∧ s.script = .wait :: rest ∧
      s.turns = [.host, .engine] ∧ ∀ a, a < 4096 → s.buf.read a ≠ none :=
  ⟨{ State.reset with busy := true, script := [.wait, .check], turns := [.host, .engine],
                      buf := fullBuf }, [.check], rfl, rfl, rfl, fullBuf_written⟩

/-- ExecStatementRunsItsCommand: with no argument, and with all five. -/
theorem witness_execStatement :
    (∃ (s : State) (rest : List HostOp), s.busy = false ∧ s.turns = [] ∧
      s.script = (Statement.exec .nop none none none none none).ops ++ rest) ∧
      ∃ (s : State) (rest : List HostOp), s.busy = false ∧ s.turns = [] ∧
        s.script = (Statement.exec (.aesEncBlock true) (some 0) (some 1) (some 2) (some 3)
          (some 4)).ops ++ rest :=
  ⟨⟨{ State.reset with script := (Statement.exec .nop none none none none none).ops ++ [] }, [],
      rfl, rfl, rfl⟩,
    ⟨{ State.reset with script := (Statement.exec (.aesEncBlock true) (some 0) (some 1) (some 2)
        (some 3) (some 4)).ops ++ [.check] }, [.check], rfl, rfl, rfl⟩⟩

/-- CommandWriteAcceptedOrDropped, CommandReadsOnlyLatchedValues: busy and not busy. -/
theorem witness_busy : (∃ s : State, s.busy = true) ∧ ∃ s : State, s.busy = false :=
  ⟨⟨{ State.reset with busy := true }, rfl⟩, ⟨State.reset, rfl⟩⟩

/-- ControlWriteResets: both values of bit 0, each with every reserved bit 1. -/
theorem witness_control :
    (∃ v : Word, v.getLsbD 0 = false) ∧ ∃ v : Word, v.getLsbD 0 = true :=
  ⟨⟨0xFFFFFFFE, by decide⟩, ⟨0xFFFFFFFF, by decide⟩⟩

/-- ReservedOffsetsReadZero: the first and the last offset. -/
theorem witness_reserved :
    (∃ off : Nat, off = 0x040 ∧ 0x040 ≤ off ∧ off ≤ 0xFFF ∧ off % 4 = 0) ∧
      ∃ off : Nat, off = 0xFFC ∧ 0x040 ≤ off ∧ off ≤ 0xFFF ∧ off % 4 = 0 :=
  ⟨⟨0x040, by decide⟩, ⟨0xFFC, by decide⟩⟩

/-- HostFaults: each clause at the ends of its range. -/
theorem witness_hostFaults :
    (∃ off width : Nat, off = 0xFFF ∧ off < 0x1000 ∧ ¬(width = 4 ∧ off % 4 = 0)) ∧
    (∃ off width : Nat, off = 0x1FFF ∧ 0x1000 ≤ off ∧ off < 0x2000 ∧
      ¬((width = 1 ∨ width = 2 ∨ width = 4) ∧ off % width = 0)) ∧
    (∃ (s : State) (off width : Nat), off = 0x1FFC ∧ 0x1000 ≤ off ∧ off < 0x2000 ∧
      (width = 1 ∨ width = 2 ∨ width = 4) ∧ off % width = 0 ∧ s.busy = true) ∧
    (∃ (s : State) (off width : Nat), off = 0x1000 ∧ 0x1000 ≤ off ∧ off < 0x2000 ∧
      (width = 1 ∨ width = 2 ∨ width = 4) ∧ off % width = 0 ∧ s.busy = false ∧
      ∃ j, j < width ∧ s.buf.read (off - 0x1000 + j) = none) ∧
    (∃ off : Nat, off = 0x2000 ∧ 0x2000 ≤ off) ∧
    (∃ (s : State) (a : Nat), a < s.params.base ∨ s.params.base + 0x2000 ≤ a) ∧
    ∃ off : Nat, off = 0x1FFF ∧ off < 0x2000 :=
  ⟨⟨0xFFF, 4, by decide⟩, ⟨0x1FFF, 2, by decide⟩,
    ⟨{ State.reset with busy := true }, 0x1FFC, 4, by decide⟩,
    ⟨State.reset, 0x1000, 4, rfl, by decide, by decide, by decide, by decide, rfl, 3, by decide, rfl⟩,
    ⟨0x2000, by decide⟩, ⟨{ State.reset with params := params }, 0x2000, .inr (by decide)⟩,
    ⟨0x1FFF, by decide⟩⟩

/-- BufAccessIsLittleEndian: the last word of BUF, with its bytes written. -/
theorem witness_bufAccess :
    ∃ (s : State) (width k : Nat) (bs : Bytes), (width = 1 ∨ width = 2 ∨ width = 4) ∧ k = 4092 ∧
      k % width = 0 ∧ k < 4096 ∧ s.busy = false ∧ bs.length = width ∧ Memory.Holds s.buf k bs :=
  ⟨{ State.reset with buf := Memory.cells 4092 [1, 2, 3, 4] }, 4, 4092, [1, 2, 3, 4], by decide, rfl,
    by decide, by decide, rfl, rfl, Memory.holds_cells _ _⟩

/-- BusyBufLoadReturnsADraw: a load of an unwritten BUF with draws listed. -/
theorem witness_busyLoad :
    ∃ (s : State) (width k : Nat) (bs rest : Bytes), (width = 1 ∨ width = 2 ∨ width = 4) ∧
      k % width = 0 ∧ k < 4096 ∧ s.busy = true ∧ bs.length = width ∧ s.randomInput = bs ++ rest :=
  ⟨{ State.reset with busy := true, randomInput := [7, 8, 9] }, 2, 4094, [7, 8], [9], by decide,
    by decide, by decide, rfl, rfl, rfl⟩

theorem reset_inv : State.reset.Inv where
  buf_wf := by decide
  hash_sound := HashState.initial_sound
  sched_sound := rfl
  km_sound := rfl
  session_sound := rfl
  err_iff := by decide
  errCode_ne_aborted := by decide
  busy_clear := by decide
  result_le := by decide
  hsFail_iff := by decide
  enable_zero := fun _ => rfl
  km_valid := by decide
  cert_full := by decide

/-- A state with HASH_FINAL in flight that meets the invariant. -/
theorem busy_inv : State.Inv { State.reset with busy := true, curCmd := 3, buf := fullBuf } :=
  { reset_inv with buf_wf := fullBuf_wf, busy_clear := fun _ => ⟨rfl, rfl⟩ }

/-- StepKeepsTheInvariant, OutputRangeAndResult: a command in flight in a state with the invariant. -/
theorem witness_inv :
    (∃ s t : State, s.Inv ∧ s.busy = true ∧ step s = .next t) ∧
      ∃ (i : Instr) (s t : State), s.Inv ∧ s.err = false ∧ exec i s = .next t :=
  ⟨⟨_, _, busy_inv, rfl, rfl⟩, ⟨.hashFinal, _, _, busy_inv, rfl, rfl⟩⟩

/-- HostAccessReadsNoInternalState: two states that differ in what the Host cannot see. -/
theorem witness_hostView : ∃ s u : State, s.hostView = u.hostView ∧ s.session ≠ u.session :=
  ⟨State.reset, { State.reset with session := { Session.zero with macCount := 1 } }, rfl, by decide⟩

/-- HostAccessKeepsInternalState: a store to CTRL of a value with bit 0 = 0, and a CMD store that is
accepted and changes the latched command. -/
theorem witness_hostAccess :
    (∃ (s t : State) (op : HostOp), s.hostAccess op = .next t ∧ ¬op.resets s.params) ∧
      ∃ (s t : State) (op : HostOp), s.hostAccess op = .next t ∧ ¬op.resets s.params ∧
        t.curCmd ≠ s.curCmd :=
  ⟨⟨State.reset, State.reset, .store 4 (.window 4) 0xFFFFFFFE, rfl,
      fun h => Bool.false_ne_true h.2⟩,
    ⟨State.reset, State.reset.acceptCommand 3, .store 4 (.window 0x00C) 3, rfl,
      fun h => absurd (Option.some.inj h.1) (by decide), by decide⟩⟩

/-- CommandReadsOnlyItsArguments: arguments that differ where the command does not look. -/
theorem witness_sameArgs :
    ∃ (i : Instr) (s : State) (b : Args), i.SameArgs s.larg b ∧ s.larg ≠ b :=
  ⟨.aesEncBlock false, State.reset, { Args.zero with arg4 := 5 }, by
    intro k hk; revert hk; revert k; decide, by decide⟩

/-- ValuesThatCommandsIgnore, HandshakeUsesPrivateInstances. -/
theorem witness_kinds :
    (∃ i : Instr, i ≠ .hsCert ∧ i ≠ .hsResponse ∧ i ≠ .hsOpen) ∧ ∃ i : Instr, i.isHs = true :=
  ⟨⟨.hsConfirm, by decide, by decide, by decide⟩, ⟨.hsResponse, rfl⟩⟩

/-- KeyMaterialIsLocked: key material, with a command that answers and with a step that does. -/
theorem witness_locked :
    (∃ (s t : State) (i : Instr), s.km.valid = true ∧ exec i s = .next t) ∧
      ∃ s t : State, s.km.valid = true ∧ step s = .next t :=
  ⟨⟨{ State.reset with km := toyKey }, _, .hsStart, rfl, rfl⟩,
    ⟨{ State.reset with km := toyKey }, _, rfl, rfl⟩⟩

/-- ChecksDecideInOrder, FailedCommandHasNoOtherEffect: a failed check, and an error on the data. -/
theorem witness_errors :
    (∃ (i : Instr) (s : State) (code : ErrCode), firstFailed (i.checks s) = some code) ∧
      (∃ (i : Instr) (s t : State), firstFailed (i.checks s) = none ∧ s.err = false ∧
        exec i s = .next t ∧ t.err = true) ∧
      ∃ (i : Instr) (s t : State), i.isHs = true ∧ s.err = false ∧ exec i s = .next t ∧
        t.err = true :=
  ⟨⟨.hashFinal, inFlight 0 [] 0 0 4077 0 0, .badArg, by decide⟩,
    ⟨.rsaPub, { inFlight 0 [0x41] 0 1 0 1 0 with km := toyKey }, _, by decide, rfl, rfl, rfl⟩,
    ⟨.hsCert, State.reset, _, rfl, rfl, rfl, rfl⟩⟩

/-- StreamedDigestIsMerkleDamgard: a full pending block. -/
theorem witness_stream : ∃ h : HashState, h.blk.length = 64 := ⟨HashState.initial, by decide⟩

/-- HashUpdateFeedsTheOperand, HashFinalWritesTheDigest, HashExpandWritesTheKeystream: operands that end
where BUF ends. -/
theorem witness_hash :
    (∃ (s : State) (data : Bytes), s.arg0 + s.arg1 = 4096 ∧ s.arg0 + s.arg1 ≤ 4096 ∧
      data.length = s.arg1 ∧ Memory.Holds s.buf s.arg0 data) ∧
    (∃ s : State, s.arg2 = 4076 ∧ s.arg2 + 20 ≤ 4096) ∧
    ∃ (s : State) (m : Bytes), s.arg0 + s.arg1 ≤ 4096 ∧ s.arg3 = 21 ∧ s.arg2 + s.arg3 ≤ 4096 ∧
      m.length = s.arg1 ∧ Memory.Holds s.buf s.arg0 m :=
  ⟨⟨inFlight 4093 [1, 2, 3] 4093 3 0 0 0, [1, 2, 3], by decide, by decide, by decide,
      Memory.holds_cells _ _⟩,
    ⟨inFlight 0 [] 0 0 4076 0 0, by decide, by decide⟩,
    ⟨inFlight 0 [1, 2, 3] 0 3 4075 21 0, [1, 2, 3], by decide, by decide, by decide, by decide,
      Memory.holds_cells _ _⟩⟩

/-- KeyExpansionRecurrence: a 32-byte key, at the first and the last word and at a substituted one. -/
theorem witness_expansion :
    ∃ (key : Bytes) (nk : Nat), (nk = 4 ∨ nk = 6 ∨ nk = 8) ∧ key.length = 4 * nk ∧
      (0 < nk ∧ nk ≤ 59 ∧ 59 < 4 * (nk + 7)) ∧ 12 % 8 = 4 :=
  ⟨count 0 32, 8, by decide, by decide, by decide, by decide⟩

/-- AesKeyschedLoadsTheSchedule: a key that ends where BUF ends, and a length that is none. -/
theorem witness_keysched :
    (∃ (s : State) (key : Bytes), (s.arg1 = 16 ∨ s.arg1 = 24 ∨ s.arg1 = 32) ∧
      s.arg0 + s.arg1 ≤ 4096 ∧ key.length = s.arg1 ∧ Memory.Holds s.buf s.arg0 key) ∧
      ∃ s : State, s.arg1 ≠ 16 ∧ s.arg1 ≠ 24 ∧ s.arg1 ≠ 32 :=
  ⟨⟨inFlight 4080 exampleKey 4080 16 0 0 0, exampleKey, by decide, by decide, by decide,
      Memory.holds_cells _ _⟩, ⟨inFlight 0 [] 0 17 0 0 0, by decide, by decide, by decide⟩⟩

/-- SingleBlockCommands: without a seed, and with the block as its own seed and destination. -/
theorem witness_block :
    (∃ (s : State) (b : Bytes), s.sched.valid = true ∧ s.arg0 + 16 ≤ 4096 ∧ s.arg2 + 16 ≤ 4096 ∧
      b.length = 16 ∧ Memory.Holds s.buf s.arg0 b) ∧
    ∃ (s : State) (b : Bytes) (seed : Option Bytes), seed.isSome = true ∧ s.sched.valid = true ∧
      s.arg0 + 16 ≤ 4096 ∧ s.arg2 + 16 ≤ 4096 ∧ b.length = 16 ∧ Memory.Holds s.buf s.arg0 b ∧
      ∀ x ∈ seed, x.length = 16 ∧ s.arg4 + 16 ≤ 4096 ∧ Memory.Holds s.buf s.arg4 x := by
  refine ⟨⟨keyed exampleKey (inFlight 0 chainPlain 0 0 4080 0 0), chainPlain, rfl, by decide,
    by decide, rfl, Memory.holds_cells _ _⟩,
    ⟨keyed exampleKey (inFlight 4080 chainPlain 4080 0 4080 0 4080), chainPlain, some chainPlain, rfl,
      rfl, by decide, by decide, rfl, Memory.holds_cells _ _, ?_⟩⟩
  rintro x ⟨⟩
  exact ⟨rfl, by decide, Memory.holds_cells _ _⟩

theorem keyed_sound {key : Bytes} (h : keyLength key.length) (s : State) :
    (keyed key s).sched.Sound :=
  (if_pos rfl).mpr ⟨key, h, rfl⟩

/-- ChainedCommands: a short last chunk, with and without an initial feedback. -/
theorem witness_chain :
    (∃ (s : State) (p : Bytes), s.sched.valid = true ∧ s.sched.Sound ∧ s.arg0 + s.arg1 ≤ 4096 ∧
      s.arg2 + s.arg1 ≤ 4096 ∧ p.length = s.arg1 ∧ Memory.Holds s.buf s.arg0 p) ∧
    ∃ (s : State) (p : Bytes) (iv : Option Bytes), iv.isSome = true ∧ s.sched.valid = true ∧ s.sched.Sound ∧
      s.arg0 + s.arg1 ≤ 4096 ∧ s.arg2 + s.arg1 ≤ 4096 ∧ p.length = s.arg1 ∧
      Memory.Holds s.buf s.arg0 p ∧
      ∀ x ∈ iv, x.length = 16 ∧ s.arg4 + 16 ≤ 4096 ∧ Memory.Holds s.buf s.arg4 x := by
  refine ⟨⟨keyed exampleKey (inFlight 0 (count 0 17) 0 17 4079 0 0), count 0 17, rfl,
    keyed_sound (.inl rfl) _, by decide,
    by decide, by decide, Memory.holds_cells _ _⟩,
    ⟨keyed exampleKey (inFlight 0 chainPlain 0 16 4080 0 0), chainPlain, some chainPlain, rfl, rfl,
      keyed_sound (.inl rfl) _,
      by decide, by decide, by decide, Memory.holds_cells _ _, ?_⟩⟩
  rintro x ⟨⟩
  exact ⟨rfl, by decide, Memory.holds_cells _ _⟩

/-- BlockDecryptionUndoesEncryption, ChainDecryptionUndoesEncryption. -/
theorem witness_roundTrips :
    (∃ (key b : Bytes) (seed : Option Bytes),
      (key.length = 16 ∨ key.length = 24 ∨ key.length = 32) ∧ b.length = 16 ∧ seed.isSome = true ∧
      ∀ x ∈ seed, x.length = 16) ∧
    ∃ key f0 : Bytes, (key.length = 16 ∨ key.length = 24 ∨ key.length = 32) ∧ f0.length = 16 :=
  ⟨⟨exampleKey, chainPlain, some chainCipher, .inl rfl, rfl, rfl, by rintro x ⟨⟩; rfl⟩,
    ⟨count 0 24, chainPlain, .inr (.inl rfl), rfl⟩⟩

/-- AesMacUsesTheSubkeys: the empty seed at the end of BUF, and 16 bytes. -/
theorem witness_mac :
    (∃ x : Bytes, x.length = 16) ∧
    (∃ (s : State) (m : Bytes), s.sched.valid = true ∧ s.arg1 ≤ 16 ∧ s.arg0 + s.arg1 ≤ 4096 ∧
      s.arg2 + 16 ≤ 4096 ∧ m.length = s.arg1 ∧ m.length = 0 ∧ Memory.Holds s.buf s.arg0 m) ∧
    ∃ (s : State) (m : Bytes), s.sched.valid = true ∧ s.arg1 ≤ 16 ∧ s.arg0 + s.arg1 ≤ 4096 ∧
      s.arg2 + 16 ≤ 4096 ∧ m.length = s.arg1 ∧ m.length = 16 ∧ Memory.Holds s.buf s.arg0 m :=
  ⟨⟨chainPlain, rfl⟩,
    ⟨keyed exampleKey (inFlight 4096 [] 4096 0 0 0 0), [], rfl, by decide, by decide, by decide,
      by decide, rfl, Memory.holds_cells _ _⟩,
    ⟨keyed exampleKey (inFlight 0 chainPlain 0 16 4080 0 0), chainPlain, rfl, by decide, by decide,
      by decide, by decide, rfl, Memory.holds_cells _ _⟩⟩

/-- RsaTransforms: a result that fits, one that needs a byte more (spec/42_rsa.md R193), and an operand
of length 0 with the exponent 0. -/
theorem witness_rsa :
    (∃ (s : State) (x : Bytes), s.km.valid = true ∧ 2 ≤ s.km.n ∧ s.arg1 ≤ 128 ∧ 1 ≤ s.arg3 ∧
      s.arg3 ≤ 128 ∧ s.arg0 + s.arg1 ≤ 4096 ∧ s.arg2 + s.arg3 ≤ 4096 ∧ x.length = s.arg1 ∧
      Memory.Holds s.buf s.arg0 x ∧ rsaValue (beInt x) s.km.d s.km.n < 256 ^ s.arg3) ∧
    (∃ (s : State) (x : Bytes), s.km.valid = true ∧ 2 ≤ s.km.n ∧ s.arg1 ≤ 128 ∧ 1 ≤ s.arg3 ∧
      s.arg3 ≤ 128 ∧ s.arg0 + s.arg1 ≤ 4096 ∧ s.arg2 + s.arg3 ≤ 4096 ∧ x.length = s.arg1 ∧
      Memory.Holds s.buf s.arg0 x ∧ 256 ^ s.arg3 ≤ rsaValue (beInt x) s.km.e s.km.n) ∧
    ∃ (s : State) (x : Bytes), s.km.valid = true ∧ 2 ≤ s.km.n ∧ s.arg1 ≤ 128 ∧ 1 ≤ s.arg3 ∧
      s.arg3 ≤ 128 ∧ s.arg0 + s.arg1 ≤ 4096 ∧ s.arg2 + s.arg3 ≤ 4096 ∧ x.length = s.arg1 ∧
      Memory.Holds s.buf s.arg0 x ∧ s.arg1 = 0 ∧ s.km.d = 0 :=
  ⟨⟨{ inFlight 0 [0x0a, 0xe6] 0 2 4092 4 0 with km := toyKey }, [0x0a, 0xe6], rfl, by decide,
      by decide, by decide, by decide, by decide, by decide, by decide, Memory.holds_cells _ _,
      by decide +kernel⟩,
    ⟨{ inFlight 0 [0x41] 0 1 4095 1 0 with km := toyKey }, [0x41], rfl, by decide, by decide,
      by decide, by decide, by decide, by decide, by decide, Memory.holds_cells _ _,
      by decide +kernel⟩,
    ⟨{ inFlight 4096 [] 4096 0 4092 4 0 with km := { toyKey with d := 0 } }, [], rfl, by decide,
      by decide, by decide, by decide, by decide, by decide, by decide, Memory.holds_cells _ _,
      by decide, rfl⟩⟩

theorem squarefree_fifteen : Squarefree 15 :=
  (Nat.squarefree_mul (m := 3) (n := 5) (by decide)).2
    ⟨Nat.prime_three.prime.squarefree, Nat.prime_five.prime.squarefree⟩

/-- RsaRoundTrip: the modulus 15 with both exponents 3, and the modulus 2 with the exponents 1 and 0 and
the input 0. -/
theorem witness_rsaRoundTrip :
    (∃ (x : Bytes) (n e d outLen : Nat), 2 ≤ n ∧ Squarefree n ∧
      e * d ≡ 1 [MOD ArithmeticFunction.carmichael n] ∧ beInt x < n ∧ minlen n ≤ outLen) ∧
    ∃ (x : Bytes) (n e d outLen : Nat), 2 ≤ n ∧ Squarefree n ∧
      e * d ≡ 1 [MOD ArithmeticFunction.carmichael n] ∧ beInt x < n ∧ minlen n ≤ outLen ∧
      n = 2 ∧ d = 0 ∧ beInt x = 0 :=
  ⟨⟨[2], 15, 3, 3, 1, by decide, squarefree_fifteen,
      Nat.ModEq.of_dvd (ArithmeticFunction.carmichael_dvd_totient 15) (by decide), by decide,
      by decide⟩,
    ⟨[], 2, 1, 0, 1, by decide, Nat.prime_two.prime.squarefree,
      Nat.ModEq.of_dvd (ArithmeticFunction.carmichael_dvd_totient 2) (by decide), by decide,
      by decide, rfl, rfl, rfl⟩⟩

/-- KmLoadReadsTheImage: a well-formed image that ends where BUF ends, and one with zero lengths. -/
theorem witness_kmLoad :
    (∃ (s : State) (im : Bytes), s.km.valid = false ∧ s.arg0 + 1037 ≤ 4096 ∧ im.length = 1037 ∧
      Memory.Holds s.buf s.arg0 im ∧ beInt (slice im 16 18) = 1 ∧ beInt (slice im 18 20) = 2 ∧
      beInt (slice im 20 22) = 2 ∧ beInt (slice im 22 24) = 0 ∧ 2 ≤ beInt (slice im 152 154)) ∧
    ∃ (s : State) (im : Bytes), s.km.valid = false ∧ s.arg0 + 1037 ≤ 4096 ∧ im.length = 1037 ∧
      Memory.Holds s.buf s.arg0 im ∧ ¬1 ≤ beInt (slice im 16 18) :=
  ⟨⟨inFlight 3059 exampleImage 3059 0 0 0 0, exampleImage, rfl, by decide, by decide,
      Memory.holds_cells _ _, by decide, by decide, by decide, by decide, by decide⟩,
    ⟨inFlight 0 (zeros 1037) 0 0 0 0 0, zeros 1037, rfl, by decide, by decide, Memory.holds_cells _ _,
      by decide⟩⟩

/-- HandshakeTransitions: an HS command that succeeds and one that fails, and a step that changes
HS_STATE. -/
theorem witness_transitions :
    (∃ (i : Instr) (s t : State), s.err = false ∧ exec i s = .next t ∧ i.isHs = true ∧
      t.err = false) ∧
    (∃ (i : Instr) (s t : State), s.err = false ∧ exec i s = .next t ∧ i.isHs = true ∧
      t.err = true) ∧
    ∃ s t : State, step s = .next t ∧ t.hsState ≠ s.hsState :=
  ⟨⟨.hsAbort, State.reset, _, rfl, rfl, rfl, rfl⟩, ⟨.hsStart, State.reset, _, rfl, rfl, rfl, rfl⟩,
    ⟨{ State.reset with busy := true, curCmd := 0x45 }, _, rfl, by decide⟩⟩

/-- SequenceCheckComesFirst: HS_OPEN in SessionOpen. -/
theorem witness_sequence :
    ∃ (i : Instr) (s : State) (st : HsState), i.requiredHs = some st ∧ s.hsState ≠ st :=
  ⟨.hsOpen, { State.reset with hsState := .sessionOpen }, .confirmed, rfl, by decide⟩

/-- HsStartAndHsAbort: with and without key material. -/
theorem witness_hsStart :
    (∃ s : State, s.km.valid = true) ∧ ∃ s : State, s.km.valid = false :=
  ⟨⟨{ State.reset with km := toyKey }, rfl⟩, ⟨State.reset, rfl⟩⟩

/-- HsCertBuildsTheMessage: room for the message up to the end of BUF. -/
theorem witness_hsCert :
    ∃ s : State, s.km.Loaded ∧ s.hsState = .reset ∧ s.arg2 + 785 ≤ 4096 ∧ s.ltstatus = 0 ∧
      s.km.certLen = 0x275 := by
  refine ⟨{ inFlight 0 [] 0 0 3311 0 0 with km := toyKey, hsState := .reset }, ?_, rfl, by decide,
    rfl, rfl⟩
  constructor <;> decide

/-- SignatureBufferLayout: a digest. -/
theorem witness_signature : ∃ d : Bytes, d.length = 20 := ⟨zeros 20, by decide⟩

/-- UnwrapLayout: an RSA output. -/
theorem witness_unwrap : ∃ x : Bytes, x.length = 128 := ⟨zeros 128, by decide⟩

/-- PayloadParsesAsItsFields: a payload with an empty certificate. -/
def examplePayload : Bytes := payloadOf 0 0 0 [] (count 0 16) [] [] (count 0xe0 20) (zeros 13)

theorem test_payload : parsePayload examplePayload = some (count 0 16, count 0xe0 20) := by decide

/-- The session key that a response with a zero blob carries, computed outside the model. -/
def exampleSkey : Bytes :=
  [0x95, 0x87, 0xb0, 0x0a, 0x9e, 0xf6, 0x80, 0x51, 0xe1, 0x1e, 0xea, 0x7b, 0xe1, 0x76, 0xe9, 0x5d]

theorem test_unwrap : unwrap (zeros 128) = exampleSkey := by decide +kernel

/-- The chained encryption of `examplePayload` under it, computed outside the model. -/
def exampleCipher : Bytes :=
  [0x53, 0x97, 0xbc, 0x14, 0x3d, 0x69, 0x92, 0x8a, 0x96, 0x96, 0xcd, 0x0b, 0xa4, 0xf3, 0x19, 0xf2,
   0x47, 0x6e, 0x0e, 0x29, 0xab, 0x3b, 0x8d, 0x12, 0x97, 0xa9, 0x4b, 0x71, 0x31, 0x17, 0xe7, 0xbf,
   0x74, 0x58, 0x5e, 0x8f, 0xf7, 0x44, 0x22, 0xde, 0x61, 0x23, 0xc1, 0xf9, 0xe3, 0x82, 0xcb, 0xf2,
   0x0a, 0xb7, 0x41, 0xcd, 0x28, 0x6e, 0x34, 0x26, 0xb1, 0xdb, 0x3a, 0x9c, 0x41, 0xf0, 0x08, 0x3b]

theorem exampleKeys_sound : (mksched exampleSkey).Sound := mksched_sound (.inl rfl)

/-- A response whose blob is 0 and whose payload has the 64 bytes that decrypt from `c`, and arbitrary
blocks after them. -/
def responseWith (c : Bytes) : Bytes :=
  [0x02, 0x02, 0x00, 0x80] ++ zeros 128 ++ [0x00, 0x00, 0x03, 0x40] ++ (c ++ zeros 768)

/-- A response whose payload is `examplePayload`. -/
def exampleResponse : Bytes := responseWith exampleCipher

/-- A state that waits for the response `r`, with a modulus of 128 bytes. -/
def awaiting (nonce r : Bytes) : State :=
  { inFlight 0 r 0 (BitVec.ofNat 32 r.length) 0 0 0 with
    hsState := .certSent, session := { Session.zero with nonce := nonce }
    km := { toyKey with n := 256 ^ 128 - 1, d := 1 } }

theorem responseWith_framed {c : Bytes} (h : c.length = 64) : WellFramed (responseWith c) :=
  ⟨by simp [responseWith, h], rfl, rfl, rfl, rfl, rfl⟩

theorem responseWith_payload {c : Bytes} (h : c.length = 64) :
    slice (responseWith c) 136 968 = c ++ zeros 768 := by
  rw [slice, responseWith, List.drop_left' (by simp), List.take_of_length_le (by simp [h])]

/-- The blob of such a response unwraps to the session key. -/
theorem responseWith_unwrap (c nonce : Bytes) :
    unwrap (beBytes (rsaValue (beInt (slice (responseWith c) 4 132))
      (awaiting nonce (responseWith c)).km.d (awaiting nonce (responseWith c)).km.n) 128) =
        exampleSkey := by
  have hs : slice (responseWith c) 4 132 = zeros 128 := by
    rw [slice, responseWith, List.append_assoc, List.append_assoc,
      List.drop_left' (by simp), List.take_left' (by simp)]
  rw [hs]
  exact (congrArg unwrap
    (show beBytes (rsaValue (beInt (zeros 128)) 1 (256 ^ 128 - 1)) 128 = zeros 128 by
      decide +kernel)).trans
    test_unwrap

theorem examplePayload_decrypts :
    (chaindec (mksched exampleSkey) (exampleCipher ++ zeros 768) (zeros 16)).take 64 =
      examplePayload := by decide +kernel

theorem exampleResponse_parses (nonce : Bytes) :
    parsePayload (chaindec (mksched (unwrap (beBytes (rsaValue (beInt (slice exampleResponse 4 132))
      (awaiting nonce exampleResponse).km.d (awaiting nonce exampleResponse).km.n) 128)))
      (slice exampleResponse 136 968) (awaiting nonce exampleResponse).params.hsIv.toList) =
        some (count 0 16, count 0xe0 20) := by
  rw [exampleResponse, responseWith_unwrap, responseWith_payload rfl,
    ← List.take_append_drop 64 (chaindec _ _ _)]
  exact parsePayload_append _ (by
    rw [show (awaiting nonce _).params.hsIv.toList = zeros 16 from rfl, examplePayload_decrypts]
    exact test_payload)

/-- HsResponseAcceptsTheEcho: a response that echoes the nonce. -/
theorem witness_hsResponse :
    ∃ (s : State) (r mh : Bytes), 2 ≤ s.km.n ∧ s.km.n < 256 ^ 128 ∧ s.hsState = .certSent ∧
      s.arg0 + s.arg1 ≤ 4096 ∧ s.ltstatus = 0 ∧ r.length = s.arg1 ∧ Memory.Holds s.buf s.arg0 r ∧
      WellFramed r ∧
      parsePayload (chaindec (mksched (unwrap
        (beBytes (rsaValue (beInt (slice r 4 132)) s.km.d s.km.n) 128)))
        (slice r 136 968) s.params.hsIv.toList) = some (s.session.nonce, mh) := by
  have hw : WellFramed exampleResponse := responseWith_framed rfl
  have ha : (awaiting (count 0 16) exampleResponse).arg1 = 968 := by
    change (BitVec.ofNat 32 exampleResponse.length).toNat = 968
    rw [hw.1]; rfl
  exact ⟨awaiting (count 0 16) exampleResponse, exampleResponse, count 0xe0 20, by decide +kernel,
    by decide +kernel, rfl, by rw [ha]; decide, rfl, by rw [ha, hw.1], Memory.holds_cells _ _, hw,
    exampleResponse_parses _⟩

/-- HsResponseTurnsAway: a response that is too short; a well-framed one whose payload, the decryption
of zero bytes, does not parse; and a well-framed one that echoes another nonce. -/
theorem witness_hsResponseTurnsAway :
    (∃ (s : State) (r : Bytes), s.hsState = .certSent ∧ s.arg0 + s.arg1 ≤ 4096 ∧ s.ltstatus = 0 ∧
      r.length = s.arg1 ∧ Memory.Holds s.buf s.arg0 r ∧ ¬WellFramed r) ∧
    (∃ (s : State) (r : Bytes), s.hsState = .certSent ∧ s.arg0 + s.arg1 ≤ 4096 ∧ s.ltstatus = 0 ∧
      r.length = s.arg1 ∧ Memory.Holds s.buf s.arg0 r ∧ WellFramed r ∧ 2 ≤ s.km.n ∧
      s.km.n < 256 ^ 128 ∧ parsePayload (chaindec (mksched (unwrap
        (beBytes (rsaValue (beInt (slice r 4 132)) s.km.d s.km.n) 128)))
        (slice r 136 968) s.params.hsIv.toList) = none) ∧
    ∃ (s : State) (r echo mh : Bytes), s.hsState = .certSent ∧ s.arg0 + s.arg1 ≤ 4096 ∧
      s.ltstatus = 0 ∧ r.length = s.arg1 ∧ Memory.Holds s.buf s.arg0 r ∧ WellFramed r ∧
      2 ≤ s.km.n ∧ s.km.n < 256 ^ 128 ∧ parsePayload (chaindec (mksched (unwrap
        (beBytes (rsaValue (beInt (slice r 4 132)) s.km.d s.km.n) 128)))
        (slice r 136 968) s.params.hsIv.toList) = some (echo, mh) ∧ echo ≠ s.session.nonce := by
  have arg1 {r : Bytes} (hw : WellFramed r) : (awaiting (zeros 16) r).arg1 = 968 := by
    change (BitVec.ofNat 32 r.length).toNat = 968
    rw [hw.1]; rfl
  have hz : WellFramed (responseWith (zeros 64)) := responseWith_framed (by simp)
  have he : WellFramed exampleResponse := responseWith_framed rfl
  refine ⟨⟨awaiting (zeros 16) (zeros 967), zeros 967, rfl, by decide, rfl, by decide,
      Memory.holds_cells _ _, fun h => absurd h.1 (by simp)⟩,
    ⟨awaiting (zeros 16) (responseWith (zeros 64)), responseWith (zeros 64), rfl,
      by rw [arg1 hz]; decide, rfl, by rw [arg1 hz, hz.1], Memory.holds_cells _ _, hz,
      by decide +kernel, by decide +kernel, ?_⟩,
    ⟨awaiting (zeros 16) exampleResponse, exampleResponse, count 0 16, count 0xe0 20, rfl,
      by rw [arg1 he]; decide, rfl, by rw [arg1 he, he.1], Memory.holds_cells _ _, he,
      by decide +kernel, by decide +kernel, exampleResponse_parses _,
        show count 0 16 ≠ zeros 16 by decide⟩⟩
  rw [responseWith_unwrap, responseWith_payload (by simp)]
  apply parsePayload_eq_none
  rw [length_chaindec exampleKeys_sound _ (by rfl)]
  decide +kernel

/-- HsConfirmBuildsTheMessage: a destination that ends where BUF ends. -/
theorem witness_hsConfirm :
    ∃ s : State, s.hsState = .responseValidated ∧ s.arg2 + 20 ≤ 4096 :=
  ⟨{ inFlight 0 [] 0 0 4076 0 0 with hsState := .responseValidated }, rfl, by decide⟩

/-- HsOpenDerivesTheWords: a confirmed handshake. -/
theorem witness_hsOpen : ∃ s : State, s.hsState = .confirmed ∧ s.ltstatus = 0 :=
  ⟨{ State.reset with hsState := .confirmed }, rfl, rfl⟩

end Sys2Proof.Tests
end

section
/-! SUPPORT. What each command can do, said once: a command that answers a next state has ended with
one of the error codes of its meaning, or has completed with the effect named. -/

namespace Sys2Proof.Machine

/-- From `s` to `t` a command ended with one of the errors `codes` and nothing else
(spec/60_exceptions.md R283). -/
def State.FailsWith (s t : State) (codes : List ErrCode) : Prop :=
  ∃ code ∈ codes, t = s.errored code

/-- From `s` to `t` a command of the HandshakeOrchestrator ended with one of the errors `codes` and
the entry into Failed (spec/43_handshake.md R213). -/
def State.HsFailsWith (s t : State) (codes : List ErrCode) : Prop :=
  ∃ code ∈ codes, t = s.hsFailed code

/-- A check that answers a next state has failed and answered its own, or has passed. -/
theorem check_eq_next {c : Prop} [Decidable c] {failed t : State} {passed : Result}
    (h : (if c then Host.Outcome.next failed else passed) = .next t) :
    (c ∧ t = failed) ∨ (¬c ∧ passed = .next t) := by
  by_cases hc : c
  · rw [if_pos hc] at h; cases h; exact .inl ⟨hc, rfl⟩
  · rw [if_neg hc] at h; exact .inr ⟨hc, h⟩

/-- The optional operand has 16 bytes where the word says it is there. -/
theorem State.withOptional_next_length {s : State} {present : Bool} {k : Option Bytes → Result}
    {t : State} (h : s.withOptional present k = .next t) :
    ∃ o, (∀ x ∈ o, x.length = 16) ∧ k o = .next t := by
  rcases State.withOptional_eq_next h with ⟨-, hk⟩ | ⟨-, bs, hr, hk⟩
  · exact ⟨none, by simp, hk⟩
  · exact ⟨some bs, by simpa using Memory.length_of_readBytes hr, hk⟩

variable {s t : State}

/-! ## Hash -/

theorem execHashUpdate_eq_next (h : execHashUpdate s = .next t) :
    s.FailsWith t [.badArg] ∨
      ∃ data, s.buf.readBytes s.arg0 s.arg1 = some data ∧
        t = State.completed { s with hash := hupdate s.hash data } 0 := by
  rcases check_eq_next h with ⟨-, rfl⟩ | ⟨-, h⟩
  · exact .inl ⟨_, .head _, rfl⟩
  · obtain ⟨data, hr, ⟨⟩⟩ := State.withBytes_eq_next h
    exact .inr ⟨data, hr, rfl⟩

theorem execHashFinal_eq_next (h : execHashFinal s = .next t) :
    s.FailsWith t [.badArg] ∨
      inbuf s.arg2 20 = true ∧
        t = State.completed
          (State.storeBytes { s with hash := hfinalState s.hash } s.arg2
            (hfinalBytes s.hash)) 20 := by
  rcases check_eq_next h with ⟨-, rfl⟩ | ⟨ha, ⟨⟩⟩
  · exact .inl ⟨_, .head _, rfl⟩
  · exact .inr ⟨by simpa using ha, rfl⟩

theorem execHashExpand_eq_next (h : execHashExpand s = .next t) :
    s.FailsWith t [.badArg] ∨
      inbuf s.arg2 s.arg3 = true ∧ ∃ m, s.buf.readBytes s.arg0 s.arg1 = some m ∧
        t = (s.storeBytes s.arg2 (expand m s.arg3)).completed s.arg3 := by
  rcases check_eq_next h with ⟨-, rfl⟩ | ⟨-, h⟩
  · exact .inl ⟨_, .head _, rfl⟩
  rcases check_eq_next h with ⟨-, rfl⟩ | ⟨ha, h⟩
  · exact .inl ⟨_, .head _, rfl⟩
  · obtain ⟨m, hr, ⟨⟩⟩ := State.withBytes_eq_next h
    exact .inr ⟨by simpa using ha, m, hr, rfl⟩

/-! ## Cipher -/

theorem execAesKeysched_eq_next (h : execAesKeysched s = .next t) :
    s.FailsWith t [.badArg] ∨
      keyLength s.arg1 ∧ ∃ key, s.buf.readBytes s.arg0 s.arg1 = some key ∧
        t = State.completed { s with sched := { valid := true, keys := mksched key } } 0 := by
  rcases check_eq_next h with ⟨-, rfl⟩ | ⟨hl, h⟩
  · exact .inl ⟨_, .head _, rfl⟩
  rcases check_eq_next h with ⟨-, rfl⟩ | ⟨-, h⟩
  · exact .inl ⟨_, .head _, rfl⟩
  · obtain ⟨key, hr, ⟨⟩⟩ := State.withBytes_eq_next h
    have hk : keyLength s.arg1 := by
      simp only [Bool.not_eq_true', Bool.not_eq_false, Bool.or_eq_true, beq_iff_eq] at hl
      simpa only [keyLength, or_assoc] using hl
    exact .inr ⟨hk, key, hr, rfl⟩

/-- A failed check of a single-block command is NO_SCHED or BAD_ARG. -/
theorem State.failsWith_blockCheck {seeded : Bool} {code : ErrCode}
    (h : blockCheck s seeded = some code) : s.FailsWith (s.errored code) [.noSched, .badArg] := by
  rcases blockCheck_eq_some h with ⟨-, rfl⟩ | ⟨-, rfl⟩ <;> exact ⟨_, by decide, rfl⟩

/-- A failed check of a chained command is NO_SCHED or BAD_ARG. -/
theorem State.failsWith_chainCheck {zeroIv : Bool} {code : ErrCode}
    (h : chainCheck s zeroIv = some code) : s.FailsWith (s.errored code) [.noSched, .badArg] := by
  rcases chainCheck_eq_some h with ⟨-, rfl⟩ | ⟨-, rfl⟩ <;> exact ⟨_, by decide, rfl⟩

/-- The single-block commands, with the function of the block and the seed left open: what
AES_ENC_BLOCK and AES_DEC_BLOCK share (spec/41_cipher.md R160, R161). -/
def blockCommand (seeded : Bool) (out : Option Bytes → Bytes → Bytes) (s : State) : Result :=
  match blockCheck s seeded with
  | some code => .next (s.errored code)
  | none =>
    s.withBytes s.arg0 16 fun b =>
      s.withOptional seeded fun seed => .next ((s.storeBytes s.arg2 (out seed b)).completed 16)

theorem execAesEncBlock_eq (seeded : Bool) (s : State) : execAesEncBlock seeded s =
    blockCommand seeded (fun seed b => encblk s.sched.keys (seedInto seed b)) s := rfl

theorem execAesDecBlock_eq (seeded : Bool) (s : State) : execAesDecBlock seeded s =
    blockCommand seeded (fun seed b => seedInto seed (decblk s.sched.keys b)) s := rfl

theorem blockCommand_eq_next {seeded : Bool} {out : Option Bytes → Bytes → Bytes}
    (h : blockCommand seeded out s = .next t) :
    s.FailsWith t [.noSched, .badArg] ∨
      blockCheck s seeded = none ∧ ∃ b seed, b.length = 16 ∧ (∀ x ∈ seed, x.length = 16) ∧
        t = (s.storeBytes s.arg2 (out seed b)).completed 16 := by
  unfold blockCommand at h
  cases hc : blockCheck s seeded with
  | some code =>
    simp only [hc] at h
    cases h
    exact .inl (State.failsWith_blockCheck hc)
  | none =>
    simp only [hc] at h
    obtain ⟨b, hr, h⟩ := State.withBytes_eq_next h
    obtain ⟨seed, hs, ⟨⟩⟩ := State.withOptional_next_length h
    exact .inr ⟨rfl, b, seed, Memory.length_of_readBytes hr, hs, rfl⟩

/-- An initial feedback has 16 bytes. -/
theorem length_initialFeedback {iv : Option Bytes} (h : ∀ x ∈ iv, x.length = 16) :
    (initialFeedback iv).length = 16 := by
  cases iv with
  | none => exact length_zeros 16
  | some f => exact h f rfl

/-- The chained commands, with the function of the operand and the initial feedback left open: what
AES_CHAIN_ENC and AES_CHAIN_DEC share (spec/41_cipher.md R164, R165). -/
def chainCommand (zeroIv : Bool) (out : Bytes → Bytes → Bytes) (s : State) : Result :=
  match chainCheck s zeroIv with
  | some code => .next (s.errored code)
  | none =>
    s.withOptional (!zeroIv) fun iv =>
      s.withBytes s.arg0 s.arg1 fun p =>
        .next ((s.storeBytes s.arg2 (out p (initialFeedback iv))).completed s.arg1)

theorem execAesChainEnc_eq (zeroIv : Bool) (s : State) :
    execAesChainEnc zeroIv s = chainCommand zeroIv (chainenc s.sched.keys) s := rfl

theorem execAesChainDec_eq (zeroIv : Bool) (s : State) :
    execAesChainDec zeroIv s = chainCommand zeroIv (chaindec s.sched.keys) s := rfl

theorem chainCommand_eq_next {zeroIv : Bool} {out : Bytes → Bytes → Bytes}
    (h : chainCommand zeroIv out s = .next t) :
    s.FailsWith t [.noSched, .badArg] ∨
      chainCheck s zeroIv = none ∧ ∃ p f, p.length = s.arg1 ∧ f.length = 16 ∧
        t = (s.storeBytes s.arg2 (out p f)).completed s.arg1 := by
  unfold chainCommand at h
  cases hc : chainCheck s zeroIv with
  | some code =>
    simp only [hc] at h
    cases h
    exact .inl (State.failsWith_chainCheck hc)
  | none =>
    simp only [hc] at h
    obtain ⟨iv, hiv, h⟩ := State.withOptional_next_length h
    obtain ⟨p, hr, ⟨⟩⟩ := State.withBytes_eq_next h
    exact .inr ⟨rfl, p, _, Memory.length_of_readBytes hr, length_initialFeedback hiv, rfl⟩

theorem execAesMac_eq_next (h : execAesMac s = .next t) :
    s.FailsWith t [.noSched, .badArg] ∨
      s.sched.valid = true ∧ inbuf s.arg2 16 = true ∧
        ∃ m, s.buf.readBytes s.arg0 s.arg1 = some m ∧
          t = (s.storeBytes s.arg2 (mac s.sched.keys m)).completed 16 := by
  rcases check_eq_next h with ⟨-, rfl⟩ | ⟨hv, h⟩
  · exact .inl ⟨_, by decide, rfl⟩
  rcases check_eq_next h with ⟨-, rfl⟩ | ⟨-, h⟩
  · exact .inl ⟨_, by decide, rfl⟩
  rcases check_eq_next h with ⟨-, rfl⟩ | ⟨ha, h⟩
  · exact .inl ⟨_, by decide, rfl⟩
  · obtain ⟨m, hr, ⟨⟩⟩ := State.withBytes_eq_next h
    simp only [Bool.or_eq_true, Bool.not_eq_true', not_or, Bool.not_eq_false] at hv ha
    exact .inr ⟨hv, ha.2, m, hr, rfl⟩

/-! ## RSA and key material -/

theorem rsaCommand_eq_next {ex : Nat} (h : rsaCommand ex s = .next t) :
    s.FailsWith t [.noKeymat, .badArg, .crypto] ∨
      inbuf s.arg2 s.arg3 = true ∧ ∃ x y, s.buf.readBytes s.arg0 s.arg1 = some x ∧
        rsa x ex s.km.n s.arg3 = some y ∧ t = (s.storeBytes s.arg2 y).completed s.arg3 := by
  rcases check_eq_next h with ⟨-, rfl⟩ | ⟨-, h⟩
  · exact .inl ⟨_, by decide, rfl⟩
  rcases check_eq_next h with ⟨-, rfl⟩ | ⟨-, h⟩
  · exact .inl ⟨_, by decide, rfl⟩
  rcases check_eq_next h with ⟨-, rfl⟩ | ⟨ha, h⟩
  · exact .inl ⟨_, by decide, rfl⟩
  obtain ⟨x, hr, h⟩ := State.withBytes_eq_next h
  cases hy : rsa x ex s.km.n s.arg3 with
  | none =>
    simp only [hy] at h
    cases h
    exact .inl ⟨_, by decide, rfl⟩
  | some y =>
    simp only [hy] at h
    cases h
    simp only [Bool.or_eq_true, Bool.not_eq_true', not_or, Bool.not_eq_false] at ha
    exact .inr ⟨ha.2, x, y, hr, hy, rfl⟩

theorem execKmLoad_eq_next (h : execKmLoad s = .next t) :
    s.FailsWith t [.kmLocked, .badArg, .kmInvalid] ∨
      s.km.valid = false ∧ ∃ image km, s.buf.readBytes s.arg0 imageBytes = some image ∧
        parseImage image = some km ∧ t = State.completed { s with km := km } 0 := by
  rcases check_eq_next h with ⟨-, rfl⟩ | ⟨hv, h⟩
  · exact .inl ⟨_, by decide, rfl⟩
  rcases check_eq_next h with ⟨-, rfl⟩ | ⟨-, h⟩
  · exact .inl ⟨_, by decide, rfl⟩
  obtain ⟨image, hr, h⟩ := State.withBytes_eq_next h
  cases hk : parseImage image with
  | none =>
    simp only [hk] at h
    cases h
    exact .inl ⟨_, by decide, rfl⟩
  | some km =>
    simp only [hk] at h
    cases h
    exact .inr ⟨by simpa using hv, image, km, hr, hk, rfl⟩

/-! ## Handshake -/

theorem execHsStart_eq_next (h : execHsStart s = .next t) :
    s.HsFailsWith t [.noKeymat] ∨
      s.km.valid = true ∧
        t = State.completed { s with hsFail := .ok, session := Session.zero,
                                     enable := EnableWords.zero, hsState := .reset } 0 := by
  rcases check_eq_next h with ⟨-, rfl⟩ | ⟨hv, ⟨⟩⟩
  · exact .inl ⟨_, .head _, rfl⟩
  · exact .inr ⟨by simpa using hv, rfl⟩

/-- HS_CERT fails before the nonce is drawn, or after it, or completes. -/
theorem execHsCert_eq_next (h : execHsCert s = .next t) :
    s.HsFailsWith t [.sequence, .badArg, .transport, .kmInvalid] ∨
    t = (s.afterDraw 16).hsFailed .crypto ∨
      s.hsState = .reset ∧ inbuf s.arg2 785 = true ∧ s.km.certLen = Config.certBytes ∧
        ∃ sig, sigBlock s.params s.km (slice (certBody s.km.cert (s.drawn 16)) 2 654) = some sig ∧
          t = State.completed
            { (s.afterDraw 16).storeBytes s.arg2 (certBody s.km.cert (s.drawn 16) ++ sig) with
              session := { s.session with nonce := s.drawn 16 }, hsState := .certSent } 785 := by
  rcases check_eq_next h with ⟨-, rfl⟩ | ⟨hst, h⟩
  · exact .inl ⟨_, by decide, rfl⟩
  rcases check_eq_next h with ⟨-, rfl⟩ | ⟨ha, h⟩
  · exact .inl ⟨_, by decide, rfl⟩
  rcases check_eq_next h with ⟨-, rfl⟩ | ⟨-, h⟩
  · exact .inl ⟨_, by decide, rfl⟩
  rcases check_eq_next h with ⟨-, rfl⟩ | ⟨hcl, h⟩
  · exact .inl ⟨_, by decide, rfl⟩
  simp only [certWithNonce, State.afterDraw_km] at h
  cases hs : sigBlock s.params s.km (slice (certBody s.km.cert (s.drawn 16)) 2 654) with
  | none =>
    simp only [hs] at h
    cases h
    exact .inr (.inl rfl)
  | some sig =>
    simp only [hs] at h
    cases h
    exact .inr (.inr ⟨not_not.mp hst, by simpa using ha, not_not.mp hcl, sig, rfl, rfl⟩)

theorem execHsResponse_eq_next (h : execHsResponse s = .next t) :
    s.HsFailsWith t [.sequence, .badArg, .transport, .framing, .crypto, .auth] ∨
      s.hsState = .certSent ∧ ∃ r x mh, s.buf.readBytes s.arg0 s.arg1 = some r ∧
        rsa (slice r 4 132) s.km.d s.km.n 128 = some x ∧
        parsePayload (decryptPayload s.params (unwrap x) r) = some (s.session.nonce, mh) ∧
        t = State.completed
          { s with
            session := { s.session with skey := unwrap x, macHash := mh,
                                        macCount := macCountOf s.params mh }
            hsState := .responseValidated } 0 := by
  rcases check_eq_next h with ⟨-, rfl⟩ | ⟨hst, h⟩
  · exact .inl ⟨_, by decide, rfl⟩
  rcases check_eq_next h with ⟨-, rfl⟩ | ⟨-, h⟩
  · exact .inl ⟨_, by decide, rfl⟩
  rcases check_eq_next h with ⟨-, rfl⟩ | ⟨-, h⟩
  · exact .inl ⟨_, by decide, rfl⟩
  obtain ⟨r, hr, h⟩ := State.withBytes_eq_next h
  rcases check_eq_next h with ⟨-, rfl⟩ | ⟨-, h⟩
  · exact .inl ⟨_, by decide, rfl⟩
  cases hx : rsa (slice r 4 132) s.km.d s.km.n 128 with
  | none =>
    simp only [hx] at h
    cases h
    exact .inl ⟨_, by decide, rfl⟩
  | some x =>
    cases hp : parsePayload (decryptPayload s.params (unwrap x) r) with
    | none =>
      simp only [hx, hp] at h
      cases h
      exact .inl ⟨_, by decide, rfl⟩
    | some fields =>
      obtain ⟨echo, mh⟩ := fields
      simp only [hx, hp] at h
      rcases check_eq_next h with ⟨-, rfl⟩ | ⟨he, ⟨⟩⟩
      · exact .inl ⟨_, by decide, rfl⟩
      · exact .inr ⟨not_not.mp hst, r, x, mh, hr, hx, not_not.mp he ▸ hp, rfl⟩

theorem execHsConfirm_eq_next (h : execHsConfirm s = .next t) :
    s.HsFailsWith t [.sequence, .badArg] ∨
      s.hsState = .responseValidated ∧ inbuf s.arg2 20 = true ∧
        t = State.completed
          { s.storeBytes s.arg2 (confirmMessage s.session.skey) with
            hsState := .confirmed } 20 := by
  rcases check_eq_next h with ⟨-, rfl⟩ | ⟨hst, h⟩
  · exact .inl ⟨_, by decide, rfl⟩
  rcases check_eq_next h with ⟨-, rfl⟩ | ⟨ha, ⟨⟩⟩
  · exact .inl ⟨_, by decide, rfl⟩
  · exact .inr ⟨not_not.mp hst, by simpa using ha, rfl⟩

theorem execHsOpen_eq_next (h : execHsOpen s = .next t) :
    s.HsFailsWith t [.sequence, .transport] ∨
      s.hsState = .confirmed ∧
        t = State.completed
          { s with enable := enableWordsOf s.session.skey s.session.macCount,
                   hsState := .sessionOpen } 0 := by
  rcases check_eq_next h with ⟨-, rfl⟩ | ⟨hst, h⟩
  · exact .inl ⟨_, by decide, rfl⟩
  rcases check_eq_next h with ⟨-, rfl⟩ | ⟨-, ⟨⟩⟩
  · exact .inl ⟨_, by decide, rfl⟩
  · exact .inr ⟨not_not.mp hst, rfl⟩

end Sys2Proof.Machine
end

section
/-! SUPPORT. The frame of every command: the pieces of state it may write, and nothing else. -/

namespace Sys2Proof

open Machine

/-- The state `s` with the pieces that command `i` may write taken from `t` (spec/10_state.md R30 to
R37); BUSY is 0. -/
def Instr.frame (i : Instr) (s t : State) : State :=
  { s with
    busy := false, err := t.err, errCode := t.errCode, result := t.result, buf := t.buf
    hash := if i.writesHash then t.hash else s.hash
    sched := if i = .aesKeysched then t.sched else s.sched
    km := if i = .kmLoad then t.km else s.km
    session := if i.isHs then t.session else s.session
    hsState := if i.isHs then t.hsState else s.hsState
    hsFail := if i.isHs then t.hsFail else s.hsFail
    enable := if i.isHs then t.enable else s.enable
    draws := if i = .hsCert then t.draws else s.draws
    randomInput := if i = .hsCert then t.randomInput else s.randomInput }

end Sys2Proof

namespace Sys2Proof.Machine

variable {s t : State}

/-- An error of any command is inside its frame. -/
theorem State.FailsWith.eq_frame {codes : List ErrCode} (h : s.FailsWith t codes) (i : Instr) :
    t = i.frame s t := by
  obtain ⟨code, -, rfl⟩ := h
  simp [Instr.frame, State.errored]

/-- The entry into Failed is inside the frame of a command of the HandshakeOrchestrator. -/
theorem State.HsFailsWith.eq_frame {codes : List ErrCode} (h : s.HsFailsWith t codes) {i : Instr}
    (hi : i.isHs = true) : t = i.frame s t := by
  obtain ⟨code, -, rfl⟩ := h
  simp [Instr.frame, hi, State.hsFailed, State.enterFailed, State.errored]

/-- Writing an output operand and completing is inside the frame of any command. -/
theorem State.stored_eq_frame (i : Instr) (s : State) (a n : Nat) (bs : Bytes) :
    (s.storeBytes a bs).completed n = i.frame s ((s.storeBytes a bs).completed n) := by
  simp [Instr.frame, State.storeBytes, State.completed]

/-- Every command stays inside its frame. -/
theorem exec_eq_frame {i : Instr} (h : exec i s = .next t) : t = i.frame s t := by
  cases i with
  | nop | hashReset | hsAbort => cases h; rfl
  | hashUpdate =>
    rcases execHashUpdate_eq_next h with hf | ⟨_, -, rfl⟩
    · exact hf.eq_frame _
    · rfl
  | hashFinal =>
    rcases execHashFinal_eq_next h with hf | ⟨-, rfl⟩
    · exact hf.eq_frame _
    · rfl
  | hashExpand =>
    rcases execHashExpand_eq_next h with hf | ⟨-, _, -, rfl⟩
    · exact hf.eq_frame _
    · exact State.stored_eq_frame ..
  | aesKeysched =>
    rcases execAesKeysched_eq_next h with hf | ⟨-, _, -, rfl⟩
    · exact hf.eq_frame _
    · rfl
  | aesEncBlock _ | aesDecBlock _ =>
    rcases blockCommand_eq_next h with hf | ⟨-, _, _, -, -, rfl⟩
    · exact hf.eq_frame _
    · exact State.stored_eq_frame ..
  | aesChainEnc _ | aesChainDec _ =>
    rcases chainCommand_eq_next h with hf | ⟨-, _, _, -, -, rfl⟩
    · exact hf.eq_frame _
    · exact State.stored_eq_frame ..
  | aesMac =>
    rcases execAesMac_eq_next h with hf | ⟨-, -, _, -, rfl⟩
    · exact hf.eq_frame _
    · exact State.stored_eq_frame ..
  | rsaPriv | rsaPub =>
    rcases rsaCommand_eq_next h with hf | ⟨-, _, _, -, -, rfl⟩
    · exact hf.eq_frame _
    · exact State.stored_eq_frame ..
  | kmLoad =>
    rcases execKmLoad_eq_next h with hf | ⟨-, _, _, -, -, rfl⟩
    · exact hf.eq_frame _
    · rfl
  | hsStart =>
    rcases execHsStart_eq_next h with hf | ⟨-, rfl⟩
    · exact hf.eq_frame rfl
    · rfl
  | hsCert =>
    rcases execHsCert_eq_next h with hf | rfl | ⟨-, -, -, _, -, rfl⟩
    · exact hf.eq_frame rfl
    · rfl
    · rfl
  | hsResponse =>
    rcases execHsResponse_eq_next h with hf | ⟨-, _, _, _, -, -, -, rfl⟩
    · exact hf.eq_frame rfl
    · rfl
  | hsConfirm =>
    rcases execHsConfirm_eq_next h with hf | ⟨-, -, rfl⟩
    · exact hf.eq_frame rfl
    · rfl
  | hsOpen =>
    rcases execHsOpen_eq_next h with hf | ⟨-, rfl⟩
    · exact hf.eq_frame rfl
    · rfl

end Sys2Proof.Machine

open Sys2Proof Sys2Proof.Machine

/-- Settles O7: the frame of a command takes none of these pieces from the state it leaves. -/
theorem commandKeepsTheHostsRegisters : Obligations.CommandKeepsTheHostsRegisters := by
  intro i s t h
  rw [exec_eq_frame h]
  exact ⟨rfl, rfl, rfl, rfl, rfl, rfl, rfl, rfl, rfl, rfl, rfl, rfl,
    fun hi => ⟨if_neg hi, if_neg hi⟩⟩

/-- Settles O29: the frame of a command takes each piece only from its writers. -/
theorem writersOfInternalState : Obligations.WritersOfInternalState := by
  intro i s t h
  rw [exec_eq_frame h]
  have keeps {α : Type} {b : Bool} {x y : α} (hb : b = false) : (if b then x else y) = y :=
    if_neg (by simp [hb])
  exact ⟨keeps, fun hi => if_neg hi, fun hi => if_neg hi,
    fun hi => ⟨keeps hi, keeps hi, keeps hi, keeps hi⟩⟩
end

section
/-! SUPPORT. The invariant of Safety.lean, kept by each shared update of the state, then by each
command, by each host access and by every step. -/

namespace Sys2Proof.Machine

variable {s t : State}

namespace State.Inv

/-! ## The shared updates -/

theorem errored (hs : s.Inv) {code : ErrCode} (hok : code ≠ .ok) (hab : code ≠ .aborted) :
    (s.errored code).Inv :=
  { hs with
    err_iff := iff_of_true rfl hok
    errCode_ne_aborted := hab
    busy_clear := fun h => absurd h Bool.false_ne_true
    result_le := Nat.zero_le _ }

/-- A move of the handshake to state `st` keeps the invariant when what it leaves fits `st`. -/
theorem withHandshake (hs : s.Inv) {st : HsState} {fail : ErrCode} {x : Session} {w : EnableWords}
    (hx : x.Sound s.params st) (hf : fail ≠ .ok ↔ st = .failed)
    (hw : st ≠ .sessionOpen → w = EnableWords.zero) (hkm : st.needsKm = true → s.km.valid = true)
    (hcl : st.pastCert = true → s.km.certLen = Config.certBytes) :
    State.Inv { s with hsState := st, hsFail := fail, session := x, enable := w } :=
  { hs with
    session_sound := hx, hsFail_iff := hf, enable_zero := hw, km_valid := hkm, cert_full := hcl }

/-- HS_FAIL is 0 while the handshake has not failed. -/
theorem hsFail_eq_ok (hs : s.Inv) (h : s.hsState ≠ .failed) : s.hsFail = .ok :=
  not_not.mp (mt hs.hsFail_iff.mp h)

/-- What holds of SESSION in a handshake state that is known. -/
theorem session_of (hs : s.Inv) {st : HsState} (h : s.hsState = st) : s.session.Sound s.params st :=
  h ▸ hs.session_sound

theorem enterFailed (hs : s.Inv) {code : ErrCode} (hok : code ≠ .ok) : (s.enterFailed code).Inv :=
  hs.withHandshake rfl (iff_of_true hok rfl) (fun _ => rfl) (fun h => absurd h Bool.false_ne_true)
    fun h => absurd h Bool.false_ne_true

theorem hsFailed (hs : s.Inv) {code : ErrCode} (hok : code ≠ .ok) (hab : code ≠ .aborted) :
    (s.hsFailed code).Inv :=
  (hs.enterFailed hok).errored hok hab

theorem failsWith (hs : s.Inv) {codes : List ErrCode} (h : s.FailsWith t codes)
    (hok : .ok ∉ codes) (hab : .aborted ∉ codes) : t.Inv := by
  obtain ⟨code, hc, rfl⟩ := h
  exact hs.errored (ne_of_mem_of_not_mem hc hok) (ne_of_mem_of_not_mem hc hab)

theorem hsFailsWith (hs : s.Inv) {codes : List ErrCode} (h : s.HsFailsWith t codes)
    (hok : .ok ∉ codes) (hab : .aborted ∉ codes) : t.Inv := by
  obtain ⟨code, hc, rfl⟩ := h
  exact hs.hsFailed (ne_of_mem_of_not_mem hc hok) (ne_of_mem_of_not_mem hc hab)

theorem completed (hs : s.Inv) {n : Nat} (hn : n ≤ 4096) : (s.completed n).Inv :=
  { hs with
    busy_clear := fun h => absurd h Bool.false_ne_true
    result_le := by
      rw [State.completed_result, BitVec.toNat_ofNat, Nat.mod_eq_of_lt (by omega)]
      exact hn }

theorem storeBytes (hs : s.Inv) {a n : Nat} {bs : Bytes} (ha : inbuf a n = true)
    (hl : bs.length = n) : (s.storeBytes a bs).Inv :=
  { hs with buf_wf := Memory.wf_write hs.buf_wf (hl ▸ (inbuf_iff a n).mp ha) }

/-- An output operand that lies in BUF is written and the command completes with its length. -/
theorem stored (hs : s.Inv) {a n : Nat} {bs : Bytes} (ha : inbuf a n = true) (hl : bs.length = n) :
    ((s.storeBytes a bs).completed n).Inv :=
  (hs.storeBytes ha hl).completed (Nat.le_of_add_left_le ((inbuf_iff a n).mp ha))

theorem withHash (hs : s.Inv) {h : HashState} (hh : h.Sound) : State.Inv { s with hash := h } :=
  { hs with hash_sound := hh }

theorem afterDraw (hs : s.Inv) (n : Nat) : (s.afterDraw n).Inv := { hs with }

theorem popTurn (hs : s.Inv) : s.popTurn.Inv := by
  unfold State.popTurn
  split
  · exact { hs with }
  · exact hs

/-- The soft reset leaves the invariant, whatever it resets: it keeps BUF alone. -/
theorem softReset (hb : s.buf.wf) : s.softReset.Inv where
  buf_wf := hb
  hash_sound := HashState.initial_sound
  sched_sound := rfl
  km_sound := rfl
  session_sound := rfl
  err_iff := by simp
  errCode_ne_aborted := by simp
  busy_clear := by simp
  result_le := Nat.zero_le _
  hsFail_iff := by simp
  enable_zero := fun _ => rfl
  km_valid := fun h => absurd h Bool.false_ne_true
  cert_full := fun h => absurd h Bool.false_ne_true

theorem acceptCommand (hs : s.Inv) (v : Word) : (s.acceptCommand v).Inv :=
  { hs with
    err_iff := by simp
    errCode_ne_aborted := by simp
    busy_clear := fun _ => ⟨rfl, rfl⟩
    result_le := Nat.zero_le _ }

/-! ## The round keys -/

/-- A loaded schedule can be used by the block functions. -/
theorem keys_sound (hs : s.Inv) (hv : s.sched.valid = true) : s.sched.keys.Sound := by
  have h := hs.sched_sound
  rw [Sched.Sound, if_pos hv] at h
  obtain ⟨key, hk, he⟩ := h
  exact he ▸ mksched_sound hk

/-! ## The commands -/

theorem execHashUpdate (hs : s.Inv) (h : execHashUpdate s = .next t) : t.Inv := by
  rcases execHashUpdate_eq_next h with hf | ⟨data, -, rfl⟩
  · exact hs.failsWith hf (by decide) (by decide)
  · exact (hs.withHash (hs.hash_sound.hupdate data)).completed (Nat.zero_le _)

theorem execHashFinal (hs : s.Inv) (h : execHashFinal s = .next t) : t.Inv := by
  rcases execHashFinal_eq_next h with hf | ⟨ha, rfl⟩
  · exact hs.failsWith hf (by decide) (by decide)
  · exact (hs.withHash hs.hash_sound.hfinalState).stored ha (length_hfinalBytes _)

theorem execHashExpand (hs : s.Inv) (h : execHashExpand s = .next t) : t.Inv := by
  rcases execHashExpand_eq_next h with hf | ⟨ha, m, -, rfl⟩
  · exact hs.failsWith hf (by decide) (by decide)
  · exact hs.stored ha (length_expand ..)

theorem execAesKeysched (hs : s.Inv) (h : execAesKeysched s = .next t) : t.Inv := by
  rcases execAesKeysched_eq_next h with hf | ⟨hk, key, hr, rfl⟩
  · exact hs.failsWith hf (by decide) (by decide)
  · have hsched : Sched.Sound { valid := true, keys := mksched key } :=
      ⟨key, (Memory.length_of_readBytes hr).symm ▸ hk, rfl⟩
    refine completed ?_ (Nat.zero_le _)
    exact { hs with sched_sound := hsched }

theorem execAesEncBlock (hs : s.Inv) {seeded : Bool} (h : execAesEncBlock seeded s = .next t) :
    t.Inv := by
  rcases blockCommand_eq_next h with hf | ⟨hc, b, seed, -, -, rfl⟩
  · exact hs.failsWith hf (by decide) (by decide)
  · obtain ⟨hv, -, ha, -⟩ := (blockCheck_eq_none s seeded).mp hc
    exact hs.stored ha (length_encblk (hs.keys_sound hv) _)

theorem execAesDecBlock (hs : s.Inv) {seeded : Bool} (h : execAesDecBlock seeded s = .next t) :
    t.Inv := by
  rcases blockCommand_eq_next h with hf | ⟨hc, b, seed, -, hseed, rfl⟩
  · exact hs.failsWith hf (by decide) (by decide)
  · obtain ⟨hv, -, ha, -⟩ := (blockCheck_eq_none s seeded).mp hc
    have hb : (decblk s.sched.keys b).length = 16 := length_decblk (hs.keys_sound hv) b
    exact hs.stored ha ((length_seedInto seed _ fun x hx => (hseed x hx).trans hb.symm).trans hb)

theorem execAesChainEnc (hs : s.Inv) {zeroIv : Bool} (h : execAesChainEnc zeroIv s = .next t) :
    t.Inv := by
  rcases chainCommand_eq_next h with hf | ⟨hc, p, f, hp, hiv, rfl⟩
  · exact hs.failsWith hf (by decide) (by decide)
  · obtain ⟨hv, -, ha, -⟩ := (chainCheck_eq_none s zeroIv).mp hc
    exact hs.stored ha ((length_chainenc (hs.keys_sound hv) p hiv).trans hp)

theorem execAesChainDec (hs : s.Inv) {zeroIv : Bool} (h : execAesChainDec zeroIv s = .next t) :
    t.Inv := by
  rcases chainCommand_eq_next h with hf | ⟨hc, c, f, hl, hiv, rfl⟩
  · exact hs.failsWith hf (by decide) (by decide)
  · obtain ⟨hv, -, ha, -⟩ := (chainCheck_eq_none s zeroIv).mp hc
    exact hs.stored ha ((length_chaindec (hs.keys_sound hv) c hiv).trans hl)

theorem execAesMac (hs : s.Inv) (h : execAesMac s = .next t) : t.Inv := by
  rcases execAesMac_eq_next h with hf | ⟨hv, ha, m, -, rfl⟩
  · exact hs.failsWith hf (by decide) (by decide)
  · exact hs.stored ha (length_mac (hs.keys_sound hv) m)

theorem rsaCommand (hs : s.Inv) {ex : Nat} (h : rsaCommand ex s = .next t) : t.Inv := by
  rcases rsaCommand_eq_next h with hf | ⟨ha, x, y, -, hy, rfl⟩
  · exact hs.failsWith hf (by decide) (by decide)
  · exact hs.stored ha (length_of_rsa hy)

/-- KM_LOAD runs with no key material loaded, so no handshake is under way that it could disturb. -/
theorem execKmLoad (hs : s.Inv) (h : execKmLoad s = .next t) : t.Inv := by
  rcases execKmLoad_eq_next h with hf | ⟨hv, image, km, hr, hk, rfl⟩
  · exact hs.failsWith hf (by decide) (by decide)
  · obtain ⟨hkv, hkl⟩ := loaded_of_parseImage (Memory.length_of_readBytes hr) hk
    have hidle : s.hsState.needsKm = false := by
      by_contra hn
      have := hs.km_valid (by simpa using hn)
      simp [hv] at this
    refine completed ?_ (Nat.zero_le _)
    refine { hs with km_sound := ?_, km_valid := fun _ => hkv, cert_full := ?_ }
    · rw [KeyMaterial.Sound, if_pos hkv]
      exact hkl
    · intro hp
      change s.hsState.pastCert = true at hp
      cases hst : s.hsState <;> simp [hst, HsState.needsKm, HsState.pastCert] at hidle hp

theorem execHsStart (hs : s.Inv) (h : execHsStart s = .next t) : t.Inv := by
  rcases execHsStart_eq_next h with hf | ⟨hv, rfl⟩
  · exact hs.hsFailsWith hf (by decide) (by decide)
  · refine completed ?_ (Nat.zero_le _)
    exact hs.withHandshake rfl (by simp) (fun _ => rfl) (fun _ => hv)
      fun h => absurd h Bool.false_ne_true

/-- With key material loaded, what HS_CERT writes is 785 bytes. -/
theorem length_certMessage (hs : s.Inv) (hv : s.km.valid = true)
    (hcl : s.km.certLen = Config.certBytes) {nonce t sig : Bytes} (hn : nonce.length = 16)
    (hsig : sigBlock s.params s.km t = some sig) :
    (certBody s.km.cert nonce ++ sig).length = 785 := by
  have hk := hs.km_sound
  rw [KeyMaterial.Sound, if_pos hv] at hk
  rw [List.length_append, length_certBody (hk.cert_length.trans hcl) hn, length_of_rsa hsig]

theorem execHsCert (hs : s.Inv) (h : execHsCert s = .next t) : t.Inv := by
  rcases execHsCert_eq_next h with hf | rfl | ⟨hst, ha, hcl, sig, hsig, rfl⟩
  · exact hs.hsFailsWith hf (by decide) (by decide)
  · exact (hs.afterDraw 16).hsFailed (by decide) (by decide)
  · have hv : s.km.valid = true := hs.km_valid (by rw [hst]; rfl)
    have hn : (s.drawn 16).length = 16 := by simp [State.drawn]
    have hzero : s.session = Session.zero := hs.session_of hst
    have hw := (hs.afterDraw 16).storeBytes ha (hs.length_certMessage hv hcl hn hsig)
    have hok : s.hsFail = .ok := hs.hsFail_eq_ok (by simp [hst])
    refine completed ?_ (by decide)
    exact hw.withHandshake ⟨hn, by rw [hzero]⟩
      (by simp [hok]) (fun _ => hs.enable_zero (by simp [hst])) (fun _ => hv) fun _ => hcl

theorem execHsResponse (hs : s.Inv) (h : execHsResponse s = .next t) : t.Inv := by
  rcases execHsResponse_eq_next h with hf | ⟨hst, r, x, mh, -, hx, hp, rfl⟩
  · exact hs.hsFailsWith hf (by decide) (by decide)
  · obtain ⟨hnonce, -⟩ := hs.session_of hst
    have hok : s.hsFail = .ok := hs.hsFail_eq_ok (by simp [hst])
    refine completed ?_ (Nat.zero_le _)
    exact hs.withHandshake
      ⟨hnonce, length_unwrap (length_of_rsa hx), length_of_parsePayload hp, rfl⟩
      (by simp [hok]) (fun _ => hs.enable_zero (by simp [hst]))
      (fun _ => hs.km_valid (by rw [hst]; rfl)) fun _ => hs.cert_full (by rw [hst]; rfl)

theorem execHsConfirm (hs : s.Inv) (h : execHsConfirm s = .next t) : t.Inv := by
  rcases execHsConfirm_eq_next h with hf | ⟨hst, ha, rfl⟩
  · exact hs.hsFailsWith hf (by decide) (by decide)
  · have hsess := hs.session_of hst
    have ⟨_, hskey, _⟩ := hsess
    have hw := hs.storeBytes ha (length_confirmMessage hskey)
    have hok : s.hsFail = .ok := hs.hsFail_eq_ok (by simp [hst])
    refine completed ?_ (by decide)
    exact hw.withHandshake hsess (by simp [hok])
      (fun _ => hs.enable_zero (by simp [hst])) (fun _ => hs.km_valid (by rw [hst]; rfl))
      fun _ => hs.cert_full (by rw [hst]; rfl)

theorem execHsOpen (hs : s.Inv) (h : execHsOpen s = .next t) : t.Inv := by
  rcases execHsOpen_eq_next h with hf | ⟨hst, rfl⟩
  · exact hs.hsFailsWith hf (by decide) (by decide)
  · have hsess := hs.session_of hst
    have hok : s.hsFail = .ok := hs.hsFail_eq_ok (by simp [hst])
    refine completed ?_ (Nat.zero_le _)
    exact hs.withHandshake hsess (by simp [hok]) (fun h => absurd rfl h)
      (fun _ => hs.km_valid (by rw [hst]; rfl)) fun _ => hs.cert_full (by rw [hst]; rfl)

/-- Every command keeps the invariant. -/
theorem exec (hs : s.Inv) {i : Instr} (h : exec i s = .next t) : t.Inv := by
  cases i with
  | nop => cases h; exact hs.completed (Nat.zero_le _)
  | hashReset =>
    cases h
    exact (hs.withHash hs.hash_sound.hreset).completed (Nat.zero_le _)
  | hashUpdate => exact hs.execHashUpdate h
  | hashFinal => exact hs.execHashFinal h
  | hashExpand => exact hs.execHashExpand h
  | aesKeysched => exact hs.execAesKeysched h
  | aesEncBlock seeded => exact hs.execAesEncBlock h
  | aesDecBlock seeded => exact hs.execAesDecBlock h
  | aesChainEnc zeroIv => exact hs.execAesChainEnc h
  | aesChainDec zeroIv => exact hs.execAesChainDec h
  | aesMac => exact hs.execAesMac h
  | rsaPriv | rsaPub => exact hs.rsaCommand h
  | kmLoad => exact hs.execKmLoad h
  | hsStart => exact hs.execHsStart h
  | hsCert => exact hs.execHsCert h
  | hsResponse => exact hs.execHsResponse h
  | hsConfirm => exact hs.execHsConfirm h
  | hsOpen => exact hs.execHsOpen h
  | hsAbort => cases h; exact (hs.enterFailed (by decide)).completed (Nat.zero_le _)

/-! ## The Host's accesses and the step -/

theorem writeCmd (hs : s.Inv) (v : Word) : (s.writeCmd v).Inv := by
  unfold State.writeCmd
  split
  · exact { hs with }
  · exact hs.acceptCommand v

theorem writeRegister (hs : s.Inv) (off : Nat) (v : Word) : (s.writeRegister off v).Inv := by
  rcases s.writeRegister_cases off v with ⟨-, -, he⟩ | ⟨-, he⟩ | he
  · rw [he]; exact softReset hs.buf_wf
  · rw [he]; exact hs.writeCmd v
  · rw [he]; exact { hs with }

/-- Every host access keeps the invariant. -/
theorem hostAccess (hs : s.Inv) {op : HostOp} (h : s.hostAccess op = .next t) : t.Inv := by
  rcases State.hostAccess_eq_next h with ⟨_, _, -, ht⟩ | ⟨_, off, v, -, -, -, -, ht⟩ |
    ⟨width, _, k, v, -, -, -, hk, ht⟩ | ⟨-, ht⟩ | ⟨-, ht⟩
  · rw [ht]; exact { hs with }
  · rw [ht]; exact hs.writeRegister off v
  · rw [ht]; exact hs.storeBytes ((inbuf_iff k width).mpr hk) (length_leBytes ..)
  · rw [ht]; exact { hs with }
  · rw [ht]; exact { hs with }

/-- Every step keeps the invariant. -/
theorem step (hs : s.Inv) (h : step s = .next t) : t.Inv := by
  rcases step_cases s with ⟨-, -, he⟩ | ⟨op, rest, -, he⟩ | ⟨-, i, -, he⟩ | ⟨-, e, -, he⟩
  · rw [he] at h; cases h; exact hs
  · have hpop : State.Inv { s.popTurn with script := rest } := { hs.popTurn with }
    exact hpop.hostAccess (he ▸ h)
  · have hpop : State.Inv { s with turns := s.turns.tail } := { hs with }
    exact hpop.exec (he ▸ h)
  · have hpop : State.Inv { s with turns := s.turns.tail } := { hs with }
    rw [he] at h; cases h
    exact hpop.errored (by decide) (by decide)

end State.Inv

/-! ## The parameters -/

theorem State.writeRegister_params (s : State) (off : Nat) (v : Word) :
    (s.writeRegister off v).params = s.params := by
  rcases s.writeRegister_cases off v with ⟨-, -, he⟩ | ⟨-, he⟩ | he
  · rw [he, State.softReset_params]
  · rw [he, State.writeCmd]
    split <;> rfl
  · rw [he]

/-- No host access changes the parameters. -/
theorem State.hostAccess_params {op : HostOp} (h : s.hostAccess op = .next t) :
    t.params = s.params := by
  rcases State.hostAccess_eq_next h with ⟨_, _, -, ht⟩ | ⟨_, off, v, -, -, -, -, ht⟩ |
    ⟨_, _, _, _, -, -, -, -, ht⟩ | ⟨-, ht⟩ | ⟨-, ht⟩
  · rw [ht]
  · rw [ht, State.writeRegister_params]
  · rw [ht, State.storeBytes_params]
  · rw [ht]
  · rw [ht]

/-- No step changes the parameters. -/
theorem step_params (h : step s = .next t) : t.params = s.params := by
  rcases step_cases s with ⟨-, -, he⟩ | ⟨op, rest, -, he⟩ | ⟨-, i, -, he⟩ | ⟨-, e, -, he⟩
  · rw [he] at h; cases h; rfl
  · rw [State.hostAccess_params (he ▸ h), State.popTurn_params]
  · exact (congrArg State.params (exec_eq_frame (he.symm.trans h))).trans rfl
  · rw [he] at h; cases h; rfl

end Sys2Proof.Machine

open Sys2Proof Sys2Proof.Machine

/-- Settles O22: each command and each host access keeps the invariant, and so does a step. -/
theorem stepKeepsTheInvariant : Obligations.StepKeepsTheInvariant :=
  fun _ _ hs h => ⟨hs.step h, step_params h⟩

/-- Settles O21: the state after reset is its own soft reset. -/
theorem resetSatisfiesTheInvariant : Obligations.ResetSatisfiesTheInvariant :=
  State.Inv.softReset (s := State.reset) Memory.wf_reset
end

section
/-! SUPPORT. STATUS and HS_STATUS bit by bit, and the register accesses of the Host. -/

namespace Sys2Proof.Machine

variable (s : State)

/-! ## STATUS -/

/-- The bits of STATUS, field by field from bit 0 up (spec/10_state.md R24). -/
theorem State.getLsbD_status (k : Nat) : s.status.getLsbD k =
    if k < 1 then (BitVec.ofBool s.busy).getLsbD k
    else if k - 1 < 1 then (BitVec.ofBool s.err).getLsbD (k - 1)
    else if k - 2 < 1 then (BitVec.ofBool s.drop).getLsbD (k - 2)
    else if k - 3 < 5 then (0 : BitVec 5).getLsbD (k - 3)
    else if k - 8 < 8 then s.errCode.code.getLsbD (k - 8)
    else if k - 16 < 1 then (BitVec.ofBool s.km.valid).getLsbD (k - 16)
    else if k - 17 < 1 then (BitVec.ofBool s.sched.valid).getLsbD (k - 17)
    else if k - 18 < 2 then (0 : BitVec 2).getLsbD (k - 18)
    else if k - 20 < 4 then s.sched.nrField.getLsbD (k - 20)
    else (0 : BitVec 8).getLsbD (k - 24) := by
  change BitVec.getLsbD ((0 : BitVec 8) ++ s.sched.nrField ++ (0 : BitVec 2) ++
    BitVec.ofBool s.sched.valid ++ BitVec.ofBool s.km.valid ++ s.errCode.code ++ (0 : BitVec 5) ++
    BitVec.ofBool s.drop ++ BitVec.ofBool s.err ++ BitVec.ofBool s.busy) k = _
  simp only [BitVec.getLsbD_append, Nat.sub_sub]

theorem State.status_busy : s.status.getLsbD 0 = s.busy :=
  (s.getLsbD_status 0).trans (by simp)

theorem State.status_err : s.status.getLsbD 1 = s.err :=
  (s.getLsbD_status 1).trans (by simp)

theorem State.status_drop : s.status.getLsbD 2 = s.drop :=
  (s.getLsbD_status 2).trans (by simp)

theorem State.status_kmValid : s.status.getLsbD 16 = s.km.valid :=
  (s.getLsbD_status 16).trans (by simp)

theorem State.status_schedValid : s.status.getLsbD 17 = s.sched.valid :=
  (s.getLsbD_status 17).trans (by simp)

theorem State.status_errCode : s.status.extractLsb' 8 8 = s.errCode.code := by
  refine BitVec.eq_of_getLsbD_eq fun j hj => ?_
  rw [BitVec.getLsbD_extractLsb', State.getLsbD_status]
  simp only [hj, decide_true, Bool.true_and, Nat.add_sub_cancel_left, if_true]
  rw [if_neg (by omega), if_neg (by omega), if_neg (by omega), if_neg (by omega)]

theorem State.status_schedNr : s.status.extractLsb' 20 4 = s.sched.nrField := by
  refine BitVec.eq_of_getLsbD_eq fun j hj => ?_
  rw [BitVec.getLsbD_extractLsb', State.getLsbD_status]
  simp only [hj, decide_true, Bool.true_and, Nat.add_sub_cancel_left, if_true]
  rw [if_neg (by omega), if_neg (by omega), if_neg (by omega), if_neg (by omega),
    if_neg (by omega), if_neg (by omega), if_neg (by omega), if_neg (by omega)]

/-- The reserved bits of STATUS read 0 (spec/10_state.md R24, R41). -/
theorem State.status_reserved {k : Nat}
    (hk : 3 ≤ k ∧ k ≤ 7 ∨ 18 ≤ k ∧ k ≤ 19 ∨ 24 ≤ k ∧ k ≤ 31) : s.status.getLsbD k = false := by
  rw [State.getLsbD_status]
  rcases hk with ⟨h1, h2⟩ | ⟨h1, h2⟩ | ⟨h1, h2⟩ <;> interval_cases k <;> rfl

theorem Sched.toNat_nrField (c : Sched) :
    c.nrField.toNat = if c.valid then c.keys.nr % 16 else 0 := by
  unfold Sched.nrField
  split <;> rfl

/-- The error code of a number (spec/60_exceptions.md R281). -/
def ErrCode.ofCode (n : BitVec 8) : ErrCode :=
  [ErrCode.ok, .illegalCmd, .badArg, .noSched, .noKeymat, .kmLocked, .kmInvalid, .crypto, .sequence,
    .transport, .framing, .auth, .aborted].getD n.toNat .ok

theorem ErrCode.ofCode_code (c : ErrCode) : ErrCode.ofCode c.code = c := by cases c <;> rfl

/-- Different error codes have different numbers. -/
theorem ErrCode.code_injective : Function.Injective ErrCode.code :=
  Function.LeftInverse.injective ErrCode.ofCode_code

/-- STATUS reads alike exactly when its fields are alike. -/
theorem State.status_eq_iff (s u : State) : s.status = u.status ↔
    s.busy = u.busy ∧ s.err = u.err ∧ s.drop = u.drop ∧ s.errCode = u.errCode ∧
      s.km.valid = u.km.valid ∧ s.sched.valid = u.sched.valid ∧
      s.sched.nrField = u.sched.nrField := by
  constructor
  · intro h
    refine ⟨?_, ?_, ?_, ErrCode.code_injective ?_, ?_, ?_, ?_⟩
    · rw [← s.status_busy, h, u.status_busy]
    · rw [← s.status_err, h, u.status_err]
    · rw [← s.status_drop, h, u.status_drop]
    · rw [← s.status_errCode, h, u.status_errCode]
    · rw [← s.status_kmValid, h, u.status_kmValid]
    · rw [← s.status_schedValid, h, u.status_schedValid]
    · rw [← s.status_schedNr, h, u.status_schedNr]
  · rintro ⟨hbusy, herr, hdrop, hcode, hkm, hsched, hnr⟩
    simp only [State.status, hbusy, herr, hdrop, hcode, hkm, hsched, hnr]

/-! ## HS_STATUS -/

/-- The bits of HS_STATUS, field by field from bit 0 up (spec/10_state.md R29). -/
theorem State.getLsbD_hsStatus (k : Nat) : s.hsStatus.getLsbD k =
    if k < 4 then s.hsState.code.getLsbD k
    else if k - 4 < 4 then (0 : BitVec 4).getLsbD (k - 4)
    else if k - 8 < 8 then s.hsFail.code.getLsbD (k - 8)
    else (0 : BitVec 16).getLsbD (k - 16) := by
  change BitVec.getLsbD
    ((0 : BitVec 16) ++ s.hsFail.code ++ (0 : BitVec 4) ++ s.hsState.code) k = _
  simp only [BitVec.getLsbD_append, Nat.sub_sub]

theorem State.hsStatus_hsState : s.hsStatus.extractLsb' 0 4 = s.hsState.code := by
  refine BitVec.eq_of_getLsbD_eq fun j hj => ?_
  rw [BitVec.getLsbD_extractLsb', State.getLsbD_hsStatus]
  simp only [hj, decide_true, Bool.true_and, Nat.zero_add, if_true]

theorem State.hsStatus_hsFail : s.hsStatus.extractLsb' 8 8 = s.hsFail.code := by
  refine BitVec.eq_of_getLsbD_eq fun j hj => ?_
  rw [BitVec.getLsbD_extractLsb', State.getLsbD_hsStatus]
  simp only [hj, decide_true, Bool.true_and, Nat.add_sub_cancel_left, if_true]
  rw [if_neg (by omega), if_neg (by omega)]

/-- The reserved bits of HS_STATUS read 0 (spec/10_state.md R29, R41). -/
theorem State.hsStatus_reserved {k : Nat} (hk : 4 ≤ k ∧ k ≤ 7 ∨ 16 ≤ k ∧ k ≤ 31) :
    s.hsStatus.getLsbD k = false := by
  rw [State.getLsbD_hsStatus]
  rcases hk with ⟨h1, h2⟩ | ⟨h1, h2⟩ <;> interval_cases k <;> rfl

/-! ## Register accesses -/

/-- An aligned 32-bit load of the register space reads the register and nothing else. -/
theorem State.hostLoad_register {off : Nat} (ho : off < 0x1000) (h4 : off % 4 = 0) :
    s.hostLoad 4 (.window off) = .next { s with hostRead := s.readRegister off } := by
  simp [State.hostLoad, HostAddr.offset, accessFault, State.received, h4, ho,
    show off < 0x2000 by omega]

/-- An aligned 32-bit store to the register space writes the register. -/
theorem State.hostStore_register {off : Nat} (ho : off < 0x1000) (h4 : off % 4 = 0) (v : Word) :
    s.hostStore 4 (.window off) v = .next (s.writeRegister off v) := by
  simp [State.hostStore, HostAddr.offset, accessFault, h4, ho, show off < 0x2000 by omega]

/-- Five argument registers with `ARG[k]` replaced (spec/10_state.md R26). -/
def Args.set (a : Args) (k : Fin 5) (v : Word) : Args :=
  match k with
  | 0 => { a with arg0 := v }
  | 1 => { a with arg1 := v }
  | 2 => { a with arg2 := v }
  | 3 => { a with arg3 := v }
  | 4 => { a with arg4 := v }

theorem Args.at_set (a : Args) (k j : Fin 5) (v : Word) :
    (a.set k v).at j = if j = k then v else a.at j := by
  fin_cases k <;> fin_cases j <;> rfl

/-- A store to ARGk replaces it and no other. -/
theorem State.writeRegister_arg (k : Fin 5) (v : Word) :
    s.writeRegister (0x010 + 4 * k.val) v = { s with args := s.args.set k v } := by
  fin_cases k <;> rfl

theorem State.readRegister_arg (k : Fin 5) :
    s.readRegister (0x010 + 4 * k.val) = s.args.at k := by
  fin_cases k <;> rfl

/-- After a soft reset STATUS reads 0 (spec/10_state.md R42). -/
theorem State.softReset_status : s.softReset.status = 0 := by
  have h : s.softReset.status = State.reset.status := rfl
  rw [h]
  decide

/-- After a soft reset HS_STATUS reads 0 (spec/10_state.md R42). -/
theorem State.softReset_hsStatus : s.softReset.hsStatus = 0 := by
  have h : s.softReset.hsStatus = State.reset.hsStatus := rfl
  rw [h]
  decide

/-- After a soft reset every register but ID reads 0 (spec/10_state.md R42). -/
theorem State.readRegister_softReset (off : Nat) :
    s.softReset.readRegister off = if off = 0 then 0x4D54505A else 0 := by
  unfold State.readRegister
  split
  case h_2 => exact s.softReset_status
  case h_10 => exact s.softReset_hsStatus
  case h_15 => rw [if_neg (by assumption)]
  all_goals rfl

end Sys2Proof.Machine

open Sys2Proof Sys2Proof.Machine

/-- Settles O4: the Engine moves, and its step decodes CUR_CMD. -/
theorem stepRunsTheDecodedCommand : Obligations.StepRunsTheDecodedCommand := by
  intro s hb hturn
  have hm : s.mover = some .engine := s.mover_eq_engine.mpr ⟨hb, hturn⟩
  have hp : s.popTurn = { s with turns := s.turns.tail } := if_pos hb
  have hstep : step s = engineStep { s with turns := s.turns.tail } := by rw [step, hm, hp]
  refine ⟨fun i hi => ?_, fun ⟨e, he⟩ => ?_⟩
  · rw [hstep, engineStep, hi]
  · rw [hstep, engineStep, he]; rfl

/-- Settles O5: the Host moves, or nobody does. -/
theorem stepMakesTheNextHostAccess : Obligations.StepMakesTheNextHostAccess := by
  intro s
  refine ⟨fun op rest hb hs => ?_, fun hb hs => ?_, fun op rest hb hs ht => ?_⟩
  · have hm : s.mover = some .host := s.mover_eq_host.mpr ⟨by simp [hs], by simp [hb]⟩
    have hp : s.popTurn = s := if_neg (by simp [hb])
    rw [step, hm, hp, hostStep, hs]
  · rw [step, s.mover_eq_none.mpr ⟨hb, hs⟩]
  · have hm : s.mover = some .host := s.mover_eq_host.mpr ⟨by simp [hs], fun _ => ht⟩
    have hp : s.popTurn = { s with turns := s.turns.tail } := if_pos hb
    rw [step, hm, hp, hostStep, hs]

/-- Settles O11: a store to CTRL is the soft reset or nothing. -/
theorem controlWriteResets : Obligations.ControlWriteResets := by
  intro s v
  have hstore : s.hostStore 4 (.window 0x004) v = .next (if v.getLsbD 0 then s.softReset else s) :=
    s.hostStore_register (by decide) (by decide) v
  refine ⟨s.hostLoad_register (by decide) (by decide), fun hv => ?_, fun hv => ?_⟩
  · rw [hstore, if_neg (Bool.eq_false_iff.mp hv)]
  · rw [hstore, if_pos hv]
    exact ⟨s.softReset, rfl, fun hm => by simpa using (State.mover_eq_engine _).mp hm, rfl⟩

/-- Settles O12: offset 0 reads as the constant and is not written. -/
theorem identificationRegister : Obligations.IdentificationRegister := fun s v =>
  ⟨s.hostLoad_register (by decide) (by decide), s.hostStore_register (by decide) (by decide) v⟩

/-- Settles O13: a store to ARGk sets that entry of the arguments. -/
theorem argumentRegistersReadBack : Obligations.ArgumentRegistersReadBack := by
  intro s v
  refine ⟨fun k => ⟨{ s with args := s.args.set k v }, ?_, rfl, fun j => s.args.at_set k j v, ?_⟩,
    s.hostStore_register (by decide) (by decide) v,
    State.hostLoad_register _ (by decide) (by decide)⟩
  · rw [s.hostStore_register (by omega) (by omega), s.writeRegister_arg]
  · rw [State.hostLoad_register _ (by omega) (by omega), State.readRegister_arg, Args.at_set,
      if_pos rfl]

/-- Settles O15: none of these offsets is written, and each reads what the register holds. -/
theorem readOnlyAndWriteOnlyRegisters : Obligations.ReadOnlyAndWriteOnlyRegisters := by
  intro s v
  refine ⟨fun off ho => ?_, s.hostLoad_register (by decide) (by decide),
    s.hostLoad_register (by decide) (by decide), s.hostLoad_register (by decide) (by decide),
    s.hostLoad_register (by decide) (by decide), s.hostLoad_register (by decide) (by decide),
    s.hostLoad_register (by decide) (by decide)⟩
  simp only [List.mem_cons, List.not_mem_nil, or_false] at ho
  rcases ho with rfl | rfl | rfl | rfl | rfl | rfl | rfl <;>
    exact s.hostStore_register (by decide) (by decide) v

/-- Settles O16: the two status registers are read field by field. -/
theorem statusRegisterFields : Obligations.StatusRegisterFields := by
  intro s
  refine ⟨⟨s.status, s.hostLoad_register (by decide) (by decide), s.status_busy, s.status_err,
    s.status_drop, s.status_errCode, s.status_kmValid, s.status_schedValid, ?_,
    fun _ => s.status_reserved⟩, ⟨s.hsStatus, s.hostLoad_register (by decide) (by decide),
    s.hsStatus_hsState, s.hsStatus_hsFail, fun _ => s.hsStatus_reserved⟩, rfl, rfl⟩
  rw [s.status_schedNr, Sched.toNat_nrField]

/-- Settles O20: the state after reset is its own soft reset, and a soft reset sets every piece to a
constant. -/
theorem resetValues : Obligations.ResetValues := by
  refine ⟨fun r hr => ?_, fun _ => rfl, fun _ => rfl⟩
  obtain ⟨s, rfl⟩ : ∃ s : State, r = s.softReset := by
    rcases hr with rfl | hr
    · exact ⟨State.reset, rfl⟩
    · exact hr
  refine ⟨fun off ho h4 => ?_, rfl, rfl, rfl, rfl, rfl, rfl, rfl, rfl, rfl, rfl, rfl, rfl⟩
  rw [State.hostLoad_register _ (by omega) h4, State.readRegister_softReset]
end

section
/-! SUPPORT. What a host access reads and writes: it depends on the Host's view of the state alone,
and of internal state it writes what the soft reset and an accepted command write. -/

namespace Sys2Proof.Machine

variable {s u : State}

/-! ## What is in the view -/

/-- A register reads alike on two states that the Host cannot tell apart. -/
theorem State.readRegister_congr (h : s.hostView = u.hostView) (off : Nat) :
    s.readRegister off = u.readRegister off := by
  have hstatus : s.status = u.status := congrArg HostView.status h
  have hargs : s.args = u.args := congrArg HostView.args h
  have hresult : s.result = u.result := congrArg HostView.result h
  have htstatus : s.tstatus = u.tstatus := congrArg HostView.tstatus h
  have hhs : s.hsStatus = u.hsStatus := congrArg HostView.hsStatus h
  have henable : s.enable = u.enable := congrArg HostView.enable h
  simp only [State.readRegister, hstatus, hargs, hresult, htstatus, hhs, henable]

theorem State.drawn_congr (h : s.hostView = u.hostView) (n : Nat) : s.drawn n = u.drawn n := by
  have hdraws : s.draws = u.draws := congrArg HostView.draws h
  have hrandom : s.randomInput = u.randomInput := congrArg HostView.randomInput h
  simp only [State.drawn, hdraws, hrandom]

/-! ## The view after an update -/

theorem State.hostView_received (h : s.hostView = u.hostView) (v : Word) :
    (s.received v).hostView = (u.received v).hostView :=
  congrArg (fun w : HostView => { w with hostRead := v }) h

theorem State.hostView_afterDraw (h : s.hostView = u.hostView) (n : Nat) :
    (s.afterDraw n).hostView = (u.afterDraw n).hostView :=
  congrArg (fun w : HostView =>
    { w with draws := w.draws + n, randomInput := w.randomInput.drop n }) h

theorem State.hostView_storeBytes (h : s.hostView = u.hostView) (a : Nat) (bs : Bytes) :
    (s.storeBytes a bs).hostView = (u.storeBytes a bs).hostView :=
  congrArg (fun w : HostView => { w with buf := w.buf.write a bs }) h

theorem State.hostView_softReset (h : s.hostView = u.hostView) :
    s.softReset.hostView = u.softReset.hostView :=
  congrArg (fun w : HostView =>
    { State.reset.hostView with
      buf := w.buf, params := w.params, draws := w.draws, randomInput := w.randomInput,
      script := w.script, turns := w.turns, hostRead := w.hostRead,
      scriptFailed := w.scriptFailed }) h

/-- The state with the flags that a store to CMD sets, and RESULT. -/
def State.withFlags (s : State) (busy err drop : Bool) (code : ErrCode) (result : Word) : State :=
  { s with busy := busy, err := err, drop := drop, errCode := code, result := result }

theorem State.hostView_withFlags (s : State) (busy err drop : Bool) (code : ErrCode)
    (result : Word) : (s.withFlags busy err drop code result).hostView =
      { s.hostView with
        busy := busy, status := (s.withFlags busy err drop code result).status
        result := result } :=
  rfl

/-- Flags set to the same values keep the views alike: the other fields of STATUS are alike before
and stay. -/
theorem State.hostView_withFlags_congr (h : s.hostView = u.hostView) (busy err drop : Bool)
    (code : ErrCode) (result : Word) :
    (s.withFlags busy err drop code result).hostView =
      (u.withFlags busy err drop code result).hostView := by
  have hs : s.status = u.status := congrArg HostView.status h
  obtain ⟨-, -, -, -, hkm, hsched, hnr⟩ := (State.status_eq_iff s u).mp hs
  have hstatus : (s.withFlags busy err drop code result).status =
      (u.withFlags busy err drop code result).status :=
    (State.status_eq_iff _ _).mpr ⟨rfl, rfl, rfl, rfl, hkm, hsched, hnr⟩
  rw [State.hostView_withFlags, State.hostView_withFlags u, hstatus, h]

/-- A store to CMD sets flags, and what it latches is not in the view. -/
theorem State.hostView_writeCmd (s : State) (v : Word) : (s.writeCmd v).hostView =
    (if s.busy then s.withFlags s.busy s.err true s.errCode s.result
      else s.withFlags true false false .ok 0).hostView := by
  unfold State.writeCmd
  split <;> rfl

theorem State.hostView_writeCmd_congr (h : s.hostView = u.hostView) (v : Word) :
    (s.writeCmd v).hostView = (u.writeCmd v).hostView := by
  have hresult : s.result = u.result := congrArg HostView.result h
  have hs : s.status = u.status := congrArg HostView.status h
  obtain ⟨hbusy, herr, -, hcode, -⟩ := (State.status_eq_iff s u).mp hs
  rw [State.hostView_writeCmd, State.hostView_writeCmd, hbusy, herr, hcode, hresult]
  split <;> exact State.hostView_withFlags_congr h ..

theorem State.hostView_writeRegister (h : s.hostView = u.hostView) (off : Nat) (v : Word) :
    (s.writeRegister off v).hostView = (u.writeRegister off v).hostView := by
  unfold State.writeRegister
  split
  · split
    · exact State.hostView_softReset h
    · exact h
  · exact State.hostView_writeCmd_congr h v
  · exact congrArg (fun w : HostView => { w with args := { w.args with arg0 := v } }) h
  · exact congrArg (fun w : HostView => { w with args := { w.args with arg1 := v } }) h
  · exact congrArg (fun w : HostView => { w with args := { w.args with arg2 := v } }) h
  · exact congrArg (fun w : HostView => { w with args := { w.args with arg3 := v } }) h
  · exact congrArg (fun w : HostView => { w with args := { w.args with arg4 := v } }) h
  · exact congrArg (fun w : HostView => { w with tstatus := v }) h
  · exact h

/-! ## The accesses -/

theorem State.sameView_loadBuf (h : s.hostView = u.hostView) (k width : Nat) :
    sameView (s.loadBuf k width) (u.loadBuf k width) := by
  have hbusy : s.busy = u.busy := congrArg HostView.busy h
  have hbuf : s.buf = u.buf := congrArg HostView.buf h
  unfold State.loadBuf State.withBytes
  rw [hbusy, hbuf, State.drawn_congr h]
  split
  · exact State.hostView_received (State.hostView_afterDraw h width) _
  · split
    · exact State.hostView_received h _
    · exact rfl

theorem State.sameView_storeBuf (h : s.hostView = u.hostView) (k width : Nat) (v : Word) :
    sameView (s.storeBuf k width v) (u.storeBuf k width v) := by
  have hbusy : s.busy = u.busy := congrArg HostView.busy h
  unfold State.storeBuf
  rw [hbusy]
  split
  · exact rfl
  · exact State.hostView_storeBytes h k _

theorem State.sameView_hostLoad (h : s.hostView = u.hostView) (width : Nat) (addr : HostAddr) :
    sameView (s.hostLoad width addr) (u.hostLoad width addr) := by
  have hparams : s.params = u.params := congrArg HostView.params h
  unfold State.hostLoad
  rw [hparams]
  split
  · exact rfl
  · split
    · exact rfl
    · split
      · rw [State.readRegister_congr h]
        exact State.hostView_received h _
      · exact State.sameView_loadBuf h _ width

theorem State.sameView_hostStore (h : s.hostView = u.hostView) (width : Nat) (addr : HostAddr)
    (v : Word) : sameView (s.hostStore width addr v) (u.hostStore width addr v) := by
  have hparams : s.params = u.params := congrArg HostView.params h
  unfold State.hostStore
  rw [hparams]
  split
  · exact rfl
  · split
    · exact rfl
    · split
      · exact State.hostView_writeRegister h _ v
      · exact State.sameView_storeBuf h _ width v

/-! ## A store to CMD -/

/-- A store to CMD sets DROP, or no command is in flight and it is accepted. -/
theorem State.writeCmd_keeps (s : State) (v : Word) :
    s.writeCmd v = { s with drop := true } ∨ s.busy = false ∧ s.writeCmd v = s.acceptCommand v := by
  unfold State.writeCmd
  cases s.busy
  · exact .inr ⟨rfl, rfl⟩
  · exact .inl rfl

end Sys2Proof.Machine

open Sys2Proof Sys2Proof.Machine

/-- Settles O23: each access reads and writes the view alone. -/
theorem hostAccessReadsNoInternalState : Obligations.HostAccessReadsNoInternalState := by
  intro s u op h
  have hstatus : s.status = u.status := congrArg HostView.status h
  cases op with
  | load width addr => exact State.sameView_hostLoad h width addr
  | store width addr v => exact State.sameView_hostStore h width addr v
  | wait =>
    simp only [State.hostAccess, hstatus]
    split
    · exact congrArg (fun w : HostView =>
        { w with hostRead := u.status, script := .wait :: w.script }) h
    · exact State.hostView_received h _
  | check =>
    simp only [State.hostAccess, hstatus]
    exact congrArg (fun w : HostView =>
      { w with hostRead := u.status,
               scriptFailed := w.scriptFailed || u.status.getLsbD 1 || u.status.getLsbD 2 }) h

/-- Settles O24: of all accesses only a register store can reach these pieces, and of those only the
soft reset and an accepted command do. -/
theorem hostAccessKeepsInternalState : Obligations.HostAccessKeepsInternalState := by
  intro s t op h hres
  rcases State.hostAccess_eq_next h with ⟨_, _, -, ht⟩ | ⟨addr, off, v, hop, hoff, -, -, ht⟩ |
    ⟨_, _, _, _, -, -, -, -, ht⟩ | ⟨-, ht⟩ | ⟨-, ht⟩
  case inr.inl =>
    rcases s.writeRegister_cases off v with ⟨rfl, hv, -⟩ | ⟨rfl, he⟩ | he
    · exact absurd ⟨hoff, hv⟩ (hop ▸ hres)
    · rw [ht, he]
      rcases s.writeCmd_keeps v with hc | ⟨hb, hc⟩
      · rw [hc]; exact ⟨rfl, rfl, rfl, rfl, rfl, rfl, rfl, .inl ⟨rfl, rfl, rfl⟩⟩
      · rw [hc]
        exact ⟨rfl, rfl, rfl, rfl, rfl, rfl, rfl, .inr ⟨hb, addr, v, hop, hoff⟩⟩
    · rw [ht, he]; exact ⟨rfl, rfl, rfl, rfl, rfl, rfl, rfl, .inl ⟨rfl, rfl, rfl⟩⟩
  all_goals
    rw [ht]
    exact ⟨rfl, rfl, rfl, rfl, rfl, rfl, rfl, .inl ⟨rfl, rfl, rfl⟩⟩
end

section
/-! SUPPORT. What a command does not read: replacing LTSTATUS and KM.ENCKEY before a command, or
after it, gives the same outcome. -/

namespace Sys2Proof

/-- Whether a command reads LTSTATUS (spec/43_handshake.md R211). -/
def Instr.readsLtstatus (i : Instr) : Prop := i = .hsCert ∨ i = .hsResponse ∨ i = .hsOpen

end Sys2Proof

namespace Sys2Proof.Machine

/-! ## Outcomes with their next state changed -/

section
variable {f : State → State} {s : State}

theorem mapNext_id (r : Result) : mapNext id r = r := by
  cases r <;> rfl

theorem mapNext_mapNext (f g : State → State) (r : Result) :
    mapNext f (mapNext g r) = mapNext (fun t => f (g t)) r := by
  cases r <;> rfl

theorem ite_eq_mapNext {c : Prop} [Decidable c] {a a' b b' : Result} (ha : a' = mapNext f a)
    (hb : b' = mapNext f b) : (if c then a' else b') = mapNext f (if c then a else b) := by
  rw [ha, hb, apply_ite (mapNext f)]

theorem State.withBytes_eq_mapNext {a n : Nat} {k k' : Bytes → Result} (hbuf : (f s).buf = s.buf)
    (h : ∀ bs, k' bs = mapNext f (k bs)) :
    (f s).withBytes a n k' = mapNext f (s.withBytes a n k) := by
  unfold State.withBytes
  rw [hbuf]
  split
  · exact h _
  · rfl

theorem State.withOptional_eq_mapNext {present : Bool} {k k' : Option Bytes → Result}
    (hbuf : (f s).buf = s.buf) (hlarg : (f s).larg = s.larg) (h : ∀ o, k' o = mapNext f (k o)) :
    (f s).withOptional present k' = mapNext f (s.withOptional present k) := by
  unfold State.withOptional State.arg4
  rw [hlarg]
  exact ite_eq_mapNext (State.withBytes_eq_mapNext hbuf fun bs => h (some bs)) (h none)

end

/-! ## LTSTATUS and KM.ENCKEY -/

/-- The state with LTSTATUS changed by `g` and KM.ENCKEY by `k`. -/
def State.altered (g : Word → Word) (k : Bytes → Bytes) (s : State) : State :=
  { s with ltstatus := g s.ltstatus, km := { s.km with encKey := k s.km.encKey } }

variable (g : Word → Word) (k : Bytes → Bytes) (s : State)

theorem blockCommand_altered (seeded : Bool) (out : Option Bytes → Bytes → Bytes) :
    blockCommand seeded out (s.altered g k) =
      mapNext (State.altered g k) (blockCommand seeded out s) := by
  have hc : blockCheck (s.altered g k) seeded = blockCheck s seeded := rfl
  unfold blockCommand
  rw [hc]
  split
  · rfl
  · exact State.withBytes_eq_mapNext rfl fun _ => State.withOptional_eq_mapNext rfl rfl fun _ => rfl

theorem chainCommand_altered (zeroIv : Bool) (out : Bytes → Bytes → Bytes) :
    chainCommand zeroIv out (s.altered g k) =
      mapNext (State.altered g k) (chainCommand zeroIv out s) := by
  have hc : chainCheck (s.altered g k) zeroIv = chainCheck s zeroIv := rfl
  unfold chainCommand
  rw [hc]
  split
  · rfl
  · exact State.withOptional_eq_mapNext rfl rfl fun _ => State.withBytes_eq_mapNext rfl fun _ => rfl

theorem rsaCommand_altered (ex : Nat) :
    rsaCommand ex (s.altered g k) = mapNext (State.altered g k) (rsaCommand ex s) := by
  refine ite_eq_mapNext rfl (ite_eq_mapNext rfl (ite_eq_mapNext rfl
    (State.withBytes_eq_mapNext rfl fun x => ?_)))
  have hn : (s.altered g k).km.n = s.km.n := rfl
  have ha : (s.altered g k).arg3 = s.arg3 := rfl
  rw [hn, ha]
  split <;> rfl

theorem certWithNonce_altered (p : Params) (nonce : Bytes) :
    certWithNonce p nonce (s.altered g k) =
      mapNext (State.altered g k) (certWithNonce p nonce s) := by
  have hc : (s.altered g k).km.cert = s.km.cert := rfl
  have hs (t : Bytes) : sigBlock p (s.altered g k).km t = sigBlock p s.km t := rfl
  unfold certWithNonce
  rw [hc]
  simp only [hs]
  split <;> rfl

theorem acceptResponse_altered (p : Params) (r : Bytes) :
    acceptResponse p r (s.altered g k) = mapNext (State.altered g k) (acceptResponse p r s) := by
  have hd : (s.altered g k).km.d = s.km.d := rfl
  have hn : (s.altered g k).km.n = s.km.n := rfl
  refine ite_eq_mapNext rfl ?_
  rw [hd, hn]
  split
  · rfl
  dsimp only
  split
  · rfl
  · exact ite_eq_mapNext rfl rfl

/-- KM_LOAD reads neither, and what it leaves in KM.ENCKEY is the image's. -/
theorem execKmLoad_altered {f f' : State → State}
    (herr : ∀ code, f (State.errored (s.altered g k) code) = f' (s.errored code))
    (hdone : ∀ km, f (State.completed { s.altered g k with km := km } 0) =
      f' (State.completed { s with km := km } 0)) :
    mapNext f (execKmLoad (s.altered g k)) = mapNext f' (execKmLoad s) := by
  have hv : (s.altered g k).km.valid = s.km.valid := rfl
  have ha : (s.altered g k).arg0 = s.arg0 := rfl
  have hb : (s.altered g k).buf = s.buf := rfl
  unfold execKmLoad State.withBytes
  rw [hv, ha, hb]
  split
  · exact congrArg Host.Outcome.next (herr _)
  split
  · exact congrArg Host.Outcome.next (herr _)
  split
  · dsimp only
    split
    · exact congrArg Host.Outcome.next (herr _)
    · exact congrArg Host.Outcome.next (hdone _)
  · rfl

variable {i : Instr}

/-- No command but KM_LOAD reads or writes KM.ENCKEY, and none but three reads LTSTATUS. -/
theorem exec_altered (hi : i ≠ .kmLoad) (hg : i.readsLtstatus → g = id) :
    exec i (s.altered g k) = mapNext (State.altered g k) (exec i s) := by
  cases i with
  | nop | hashReset | hsAbort => rfl
  | hashUpdate => exact ite_eq_mapNext rfl (State.withBytes_eq_mapNext rfl fun _ => rfl)
  | hashFinal => exact ite_eq_mapNext rfl rfl
  | hashExpand =>
    exact ite_eq_mapNext rfl (ite_eq_mapNext rfl (State.withBytes_eq_mapNext rfl fun _ => rfl))
  | aesKeysched =>
    exact ite_eq_mapNext rfl (ite_eq_mapNext rfl (State.withBytes_eq_mapNext rfl fun _ => rfl))
  | aesEncBlock seeded | aesDecBlock seeded => exact blockCommand_altered ..
  | aesChainEnc zeroIv | aesChainDec zeroIv => exact chainCommand_altered ..
  | aesMac =>
    exact ite_eq_mapNext rfl (ite_eq_mapNext rfl (ite_eq_mapNext rfl
      (State.withBytes_eq_mapNext rfl fun _ => rfl)))
  | rsaPriv | rsaPub => exact rsaCommand_altered ..
  | kmLoad => exact absurd rfl hi
  | hsStart => exact ite_eq_mapNext rfl rfl
  | hsCert =>
    obtain rfl := hg (.inl rfl)
    exact ite_eq_mapNext rfl (ite_eq_mapNext rfl (ite_eq_mapNext rfl (ite_eq_mapNext rfl
      (certWithNonce_altered id k (s.afterDraw 16) s.params (s.drawn 16)))))
  | hsResponse =>
    obtain rfl := hg (.inr (.inl rfl))
    exact ite_eq_mapNext rfl (ite_eq_mapNext rfl (ite_eq_mapNext rfl
      (State.withBytes_eq_mapNext rfl fun _ => acceptResponse_altered ..)))
  | hsConfirm => exact ite_eq_mapNext rfl (ite_eq_mapNext rfl rfl)
  | hsOpen =>
    obtain rfl := hg (.inr (.inr rfl))
    exact ite_eq_mapNext rfl (ite_eq_mapNext rfl rfl)

end Sys2Proof.Machine

open Sys2Proof Sys2Proof.Machine

/-- Settles O27: LTSTATUS alone is altered, then KM.ENCKEY alone. -/
theorem valuesThatCommandsIgnore : Obligations.ValuesThatCommandsIgnore := by
  intro i s
  refine ⟨fun v hcert hresp hopen => ?_, fun key => ?_⟩
  · by_cases hi : i = .kmLoad
    · subst hi
      exact (mapNext_id _).symm.trans
        (execKmLoad_altered (fun _ => v) id s (fun _ => rfl) fun _ => rfl)
    · exact exec_altered (fun _ => v) id s hi fun h => by
        rcases h with h | h | h <;> contradiction
  · by_cases hi : i = .kmLoad
    · subst hi
      exact execKmLoad_altered id (fun _ => key) s (fun _ => rfl) fun _ => rfl
    · have h := exec_altered id (fun _ => key) s hi fun _ => rfl
      exact (congrArg (mapNext _) h).trans (mapNext_mapNext ..)
end

section
/-! SUPPORT. The Host's accesses to BUF and to the reserved offsets: little-endian values, and what
a load and a store of each region answer. -/

namespace Sys2Proof.Machine

/-! ## Little-endian values -/

/-- The value of a load is the sum of its bytes, each times a power of 256
(spec/20_memory.md R64). -/
theorem leInt_eq_sum (bs : Bytes) :
    leInt bs = ∑ j : Fin bs.length, bs[j].toNat * 256 ^ j.val := by
  induction bs with
  | nil => rfl
  | cons b bs ih =>
    have hpow (j : Fin bs.length) : bs[j].toNat * 256 ^ (j.val + 1) =
        256 * (bs[j].toNat * 256 ^ j.val) := by ring
    simp only [Fin.getElem_fin] at ih hpow
    simp [leInt, ih, Fin.sum_univ_succ, Finset.mul_sum, hpow]

theorem leBytes_eq_map (v n : Nat) :
    leBytes v n = (List.range n).map fun j => BitVec.ofNat 8 (v / 256 ^ j) := by
  induction n generalizing v with
  | zero => rfl
  | succ n ih =>
    rw [leBytes, ih, List.range_succ_eq_map]
    simp [Nat.div_div_eq_div_mul, Nat.pow_succ']

theorem leInt_leBytes (v n : Nat) : leInt (leBytes v n) = v % 256 ^ n := by
  induction n generalizing v with
  | zero => exact (Nat.mod_one v).symm
  | succ n ih => rw [leBytes, leInt, ih, Nat.pow_succ', Nat.mod_mul, BitVec.toNat_ofNat]

/-! ## Listed draws -/

/-- The next draws are the bytes that the state lists for them (log 3). -/
theorem State.drawn_of_listed {s : State} {bs rest : Bytes} (h : s.randomInput = bs ++ rest) :
    s.drawn bs.length = bs := by
  refine List.ext_getElem (by simp [State.drawn]) fun j _ hj => ?_
  simp [State.drawn, h, List.getElem?_append_left hj, List.getElem?_eq_getElem hj]

/-! ## Accesses to BUF -/

section
variable {s : State} {width k : Nat}

theorem accessFault_buf (hw : width = 1 ∨ width = 2 ∨ width = 4) (hk : k % width = 0) :
    accessFault (0x1000 + k) width = none := by
  have hal : (0x1000 + k) % width = 0 := by rcases hw with rfl | rfl | rfl <;> omega
  simp [accessFault, hw, hal]

theorem HostAddr.offset_buf (p : Params) (hb : k < 4096) :
    (HostAddr.window (0x1000 + k)).offset p = some (0x1000 + k) :=
  if_pos (Nat.add_lt_add_left hb 0x1000)

/-- An aligned load of the window's upper half is a load of BUF. -/
theorem State.hostLoad_buf (hw : width = 1 ∨ width = 2 ∨ width = 4) (hk : k % width = 0)
    (hb : k < 4096) : s.hostLoad width (.window (0x1000 + k)) = s.loadBuf k width := by
  simp [State.hostLoad, HostAddr.offset_buf s.params hb, accessFault_buf hw hk]

/-- An aligned store to the window's upper half is a store to BUF. -/
theorem State.hostStore_buf (hw : width = 1 ∨ width = 2 ∨ width = 4) (hk : k % width = 0)
    (hb : k < 4096) (v : Word) :
    s.hostStore width (.window (0x1000 + k)) v = s.storeBuf k width v := by
  simp [State.hostStore, HostAddr.offset_buf s.params hb, accessFault_buf hw hk]

/-- With no command in flight a load of BUF answers the bytes it holds. -/
theorem State.loadBuf_of_holds {bs : Bytes} (hbusy : s.busy = false) (h : s.buf.Holds k bs)
    (hl : bs.length = width) :
    s.loadBuf k width = .next (s.received (BitVec.ofNat 32 (leInt bs))) := by
  rw [State.loadBuf, if_neg (by simp [hbusy]), State.withBytes_of_holds _ h hl]

/-- While a command is in flight a load of BUF answers listed draws (spec/20_memory.md R71). -/
theorem State.loadBuf_of_listed {bs rest : Bytes} (hbusy : s.busy = true)
    (h : s.randomInput = bs ++ rest) :
    s.loadBuf k bs.length =
      .next ((s.afterDraw bs.length).received (BitVec.ofNat 32 (leInt bs))) := by
  rw [State.loadBuf, if_pos hbusy, State.drawn_of_listed h]

theorem State.storeBuf_of_not_busy (hbusy : s.busy = false) (v : Word) :
    s.storeBuf k width v = .next (s.storeBytes k (leBytes v.toNat width)) :=
  if_neg (by simp [hbusy])

end

/-! ## Reserved offsets -/

/-- The reserved offsets read 0 (spec/20_memory.md R70). -/
theorem State.readRegister_reserved (s : State) {off : Nat} (h : 0x040 ≤ off) :
    s.readRegister off = 0 := by
  unfold State.readRegister
  split
  case h_15 => rfl
  all_goals exact absurd h (by decide)

/-- The reserved offsets ignore stores (spec/20_memory.md R70). -/
theorem State.writeRegister_reserved (s : State) {off : Nat} (h : 0x040 ≤ off) (v : Word) :
    s.writeRegister off v = s := by
  unfold State.writeRegister
  split
  case h_9 => rfl
  all_goals exact absurd h (by decide)

end Sys2Proof.Machine

open Sys2Proof Sys2Proof.Machine

/-- Settles O14: no register stands at a reserved offset. -/
theorem reservedOffsetsReadZero : Obligations.ReservedOffsetsReadZero := by
  intro s off v hlo hhi h4
  have ho : off < 0x1000 := by omega
  rw [s.hostLoad_register ho h4, s.hostStore_register ho h4, s.readRegister_reserved hlo,
    s.writeRegister_reserved hlo]
  exact ⟨rfl, rfl⟩

/-- Settles O18: a store leaves the little-endian bytes of its value, and a load composes them. -/
theorem bufAccessIsLittleEndian : Obligations.BufAccessIsLittleEndian := by
  intro s width k v hw hk hb hbusy
  refine ⟨fun bs hl hbs => ?_, s.storeBytes k (leBytes v.toNat width), ?_, rfl, ?_, ?_⟩
  · rw [State.hostLoad_buf hw hk hb, State.loadBuf_of_holds hbusy hbs hl, leInt_eq_sum]
    rfl
  · rw [State.hostStore_buf hw hk hb, State.storeBuf_of_not_busy hbusy]
  · rw [← leBytes_eq_map]
    exact Memory.stored_write ..
  · have hbs : (s.storeBytes k (leBytes v.toNat width)).buf.Holds k (leBytes v.toNat width) :=
      (Memory.stored_write ..).holds
    rw [State.hostLoad_buf hw hk hb,
      State.loadBuf_of_holds ((s.storeBytes_busy ..).trans hbusy) hbs (length_leBytes ..),
      leInt_leBytes]
    rfl

/-- Settles O19: the bytes of the load are the listed draws, which it takes off the list. -/
theorem busyBufLoadReturnsADraw : Obligations.BusyBufLoadReturnsADraw := by
  rintro s _ k bs rest hw hk hb hbusy rfl hrandom
  have hrest : (s.afterDraw bs.length).randomInput = rest := by simp [hrandom]
  rw [State.hostLoad_buf hw hk hb, State.loadBuf_of_listed hbusy hrandom, leInt_eq_sum, ← hrest]
  rfl
end

section
/-! SUPPORT. Where a command stops: exactly on an unwritten byte of an input operand, once its
checks have passed. -/

namespace Sys2Proof.Machine

/-- Some of the `n` bytes at offset `a` holds no value (spec/20_memory.md R72). -/
def Memory.Unwritten (m : Memory) (a n : Nat) : Prop := ∃ j, j < n ∧ m.read (a + j) = none

/-- An outcome that is the fault F_UNINIT if `p` holds and a next state if not. -/
def StopsIff (r : Result) (p : Prop) : Prop :=
  (p ∧ r = .fault .uninit) ∨ (¬p ∧ ∃ t, r = .next t)

namespace StopsIff

variable {r : Result} {p q : Prop}

theorem congr (h : StopsIff r p) (hpq : p ↔ q) : StopsIff r q := propext hpq ▸ h

theorem of_next {t : State} (h : r = .next t) : StopsIff r False := .inr ⟨id, t, h⟩

theorem next (t : State) : StopsIff (.next t) False := of_next rfl

/-- A check that fails ends the command, and one that passes lets it go on. -/
theorem check {c : Prop} [Decidable c] {t : State} (h : StopsIff r p) :
    StopsIff (if c then .next t else r) (¬c ∧ p) := by
  by_cases hc : c
  · rw [if_pos hc]; exact (next t).congr (by simp [hc])
  · rw [if_neg hc]; exact h.congr (by simp [hc])

/-- Reading an operand stops on an unwritten byte of it, or later. -/
theorem withBytes {s : State} {a n : Nat} {k : Bytes → Result} (h : ∀ bs, StopsIff (k bs) p) :
    StopsIff (s.withBytes a n k) (s.buf.Unwritten a n ∨ p) := by
  have hnone : s.buf.readBytes a n = none ↔ s.buf.Unwritten a n := Memory.readBytes_eq_none ..
  rcases s.withBytes_cases a n k with ⟨bs, hr, he⟩ | ⟨hr, he⟩
  · have hw : ¬ s.buf.Unwritten a n := fun hu => by simp [hnone.mpr hu] at hr
    exact he ▸ (h bs).congr (by simp [hw])
  · exact .inl ⟨.inl (hnone.mp hr), he⟩

/-- Reading the optional operand stops on an unwritten byte of it where it is there, or later. -/
theorem withOptional {s : State} {present : Bool} {k : Option Bytes → Result}
    (h : ∀ o, StopsIff (k o) p) : StopsIff (s.withOptional present k)
      ((present = true ∧ s.buf.Unwritten s.arg4 16) ∨ p) := by
  cases present with
  | false => exact (h none).congr (by simp)
  | true => exact (withBytes fun bs => h (some bs)).congr (by simp)

end StopsIff

/-- No check fails exactly when all pass. -/
theorem firstFailed_eq_none (checks : List (Bool × ErrCode)) :
    firstFailed checks = none ↔ ∀ c ∈ checks, c.1 = true := by
  simp [firstFailed]

variable (s : State)

theorem blockCommand_stopsIff (seeded : Bool) (out : Option Bytes → Bytes → Bytes) :
    StopsIff (blockCommand seeded out s) (blockCheck s seeded = none ∧
      (s.buf.Unwritten s.arg0 16 ∨ seeded = true ∧ s.buf.Unwritten s.arg4 16)) := by
  unfold blockCommand
  cases blockCheck s seeded with
  | some code => exact (StopsIff.next _).congr (by simp)
  | none =>
    exact (StopsIff.withBytes fun _ => .withOptional fun _ => .next _).congr (by simp)

theorem chainCommand_stopsIff (zeroIv : Bool) (out : Bytes → Bytes → Bytes) :
    StopsIff (chainCommand zeroIv out s) (chainCheck s zeroIv = none ∧
      (zeroIv = false ∧ s.buf.Unwritten s.arg4 16 ∨ s.buf.Unwritten s.arg0 s.arg1)) := by
  unfold chainCommand
  cases chainCheck s zeroIv with
  | some code => exact (StopsIff.next _).congr (by simp)
  | none =>
    exact (StopsIff.withOptional fun _ => .withBytes fun _ => .next _).congr (by simp)

theorem rsaCommand_stopsIff (ex : Nat) : StopsIff (rsaCommand ex s)
    (s.km.valid = true ∧ s.arg1 ≤ 128 ∧ (1 ≤ s.arg3 ∧ s.arg3 ≤ 128) ∧
      inbuf s.arg0 s.arg1 = true ∧ inbuf s.arg2 s.arg3 = true ∧
      s.buf.Unwritten s.arg0 s.arg1) := by
  refine (StopsIff.check (.check (.check (.withBytes (p := False) fun x => ?_)))).congr ?_
  · split <;> exact .next _
  · simp [Nat.one_le_iff_ne_zero, and_assoc]

/-- Once its nonce is drawn HS_CERT reads no BUF byte. -/
theorem certWithNonce_stopsIff (p : Params) (nonce : Bytes) :
    StopsIff (certWithNonce p nonce s) False := by
  unfold certWithNonce
  dsimp only
  split <;> exact .next _

/-- Once its response is read HS_RESPONSE reads no BUF byte. -/
theorem acceptResponse_stopsIff (p : Params) (r : Bytes) :
    StopsIff (acceptResponse p r s) False := by
  unfold acceptResponse
  split
  · exact .next _
  split
  · exact .next _
  dsimp only
  split
  · exact .next _
  split <;> exact .next _

/-- Every command stops exactly when its checks pass and a byte of its inputs holds no value. -/
theorem exec_stopsIff (i : Instr) : StopsIff (exec i s) (firstFailed (i.checks s) = none ∧
    ∃ r ∈ i.inputs s, s.buf.Unwritten r.1 r.2) := by
  rw [firstFailed_eq_none]
  cases i with
  | nop | hashReset | hsAbort => exact (StopsIff.next _).congr (by simp [Instr.inputs])
  | hashUpdate =>
    exact (StopsIff.check (.withBytes fun _ => .next _)).congr
      (by simp [Instr.checks, Instr.inputs])
  | hashFinal => exact (StopsIff.check (.next _)).congr (by simp [Instr.inputs])
  | hashExpand =>
    exact (StopsIff.check (.check (.withBytes fun _ => .next _))).congr
      (by simp [Instr.checks, Instr.inputs, and_assoc])
  | aesKeysched =>
    have hlen : (¬ (!(s.arg1 == 16 || s.arg1 == 24 || s.arg1 == 32)) = true) ↔
        s.arg1 ∈ [16, 24, 32] := by simp [or_iff_not_imp_left]
    exact (StopsIff.check (.check (.withBytes fun _ => .next _))).congr
      (by rw [hlen]; simp [Instr.checks, Instr.inputs, and_assoc])
  | aesEncBlock seeded | aesDecBlock seeded =>
    refine (blockCommand_stopsIff s seeded _).congr ?_
    cases seeded <;> simp [Instr.checks, Instr.inputs, blockCheck_eq_none, and_assoc]
  | aesChainEnc zeroIv | aesChainDec zeroIv =>
    refine (chainCommand_stopsIff s zeroIv _).congr ?_
    cases zeroIv <;> simp [Instr.checks, Instr.inputs, chainCheck_eq_none, and_assoc, or_comm]
  | aesMac =>
    exact (StopsIff.check (.check (.check (.withBytes fun _ => .next _)))).congr
      (by simp [Instr.checks, Instr.inputs, and_assoc])
  | rsaPriv | rsaPub =>
    exact (rsaCommand_stopsIff s _).congr (by simp [Instr.checks, Instr.inputs, and_assoc])
  | kmLoad =>
    refine (StopsIff.check (.check (.withBytes (p := False) fun image => ?_))).congr ?_
    · split <;> exact .next _
    · simp [Instr.checks, Instr.inputs, and_assoc, imageBytes]
  | hsStart => exact (StopsIff.check (.next _)).congr (by simp [Instr.inputs])
  | hsCert =>
    exact (StopsIff.check (.check (.check (.check (certWithNonce_stopsIff ..))))).congr
      (by simp [Instr.inputs])
  | hsResponse =>
    exact (StopsIff.check (.check (.check (.withBytes fun _ => acceptResponse_stopsIff ..)))).congr
      (by simp [Instr.checks, Instr.inputs, and_assoc])
  | hsConfirm => exact (StopsIff.check (.check (.next _))).congr (by simp [Instr.inputs])
  | hsOpen => exact (StopsIff.check (.check (.next _))).congr (by simp [Instr.inputs])

/-- Every input operand is checked to lie in BUF, the optional one where it is there. -/
theorem mem_checks_of_mem_inputs (i : Instr) :
    ∀ r ∈ i.inputs s, (inbuf r.1 r.2, .badArg) ∈ i.checks s := by
  cases i with
  | aesEncBlock b | aesDecBlock b | aesChainEnc b | aesChainDec b =>
    cases b <;> simp [Instr.checks, Instr.inputs]
  | _ => simp [Instr.checks, Instr.inputs]

end Sys2Proof.Machine

open Sys2Proof Sys2Proof.Machine

/-- Settles O6: a command stops exactly on an unwritten byte of its inputs, which lie in BUF. -/
theorem commandsStopOnlyOnUnwrittenBytes : Obligations.CommandsStopOnlyOnUnwrittenBytes := by
  intro i s
  rcases exec_stopsIff s i with ⟨⟨hc, r, hr, j, hj, hread⟩, he⟩ | ⟨hp, t, he⟩
  · have hlt : r.1 + j < 4096 := by
      have hin : inbuf r.1 r.2 = true :=
        (firstFailed_eq_none _).mp hc _ (mem_checks_of_mem_inputs s i r hr)
      have hle : r.1 + r.2 ≤ 4096 := (inbuf_iff ..).mp hin
      omega
    refine ⟨by simp [he], fun _ _ _ _ _ _ => he, fun f hf => ?_, fun hall => ?_⟩
    · rw [he] at hf
      cases hf
      exact ⟨rfl, hc, r, hr, j, hj, hlt, hread⟩
    · exact absurd hread (hall r hr j hj)
  · exact ⟨by simp [he], fun r j hc hr hj hread => absurd ⟨hc, r, hr, j, hj, hread⟩ hp,
      by simp [he], fun _ => ⟨t, he⟩⟩
end

section
/-! SUPPORT. What a command leaves in BUF, ERR and RESULT: after an error BUF as it was, and without
one a full output range, counted by RESULT. -/

namespace Sys2Proof

open Machine

/-- From `s` to `t` command `i` wrote its output range from end to end and nothing else of BUF,
RESULT counts the bytes, and ERR is as before (spec/20_memory.md R65, spec/10_state.md R27). -/
def Instr.FillsOutput (i : Instr) (s t : State) : Prop :=
  ∃ out : Bytes, out.length = (i.output s).2 ∧ t.err = s.err ∧
    t.buf = s.buf.write (i.output s).1 out ∧ t.result = BitVec.ofNat 32 (i.output s).2

end Sys2Proof

namespace Sys2Proof.Machine

/-- From `s` to `t` a command ended with an error and left BUF as it was (spec/60_exceptions.md
R283). -/
def State.EndsInError (s t : State) : Prop := t.err = true ∧ t.buf = s.buf ∧ t.result = 0

variable {s t : State}

theorem State.FailsWith.endsInError {codes : List ErrCode} (h : s.FailsWith t codes) :
    s.EndsInError t := by
  obtain ⟨code, -, rfl⟩ := h
  exact ⟨rfl, rfl, rfl⟩

theorem State.HsFailsWith.endsInError {codes : List ErrCode} (h : s.HsFailsWith t codes) :
    s.EndsInError t := by
  obtain ⟨code, -, rfl⟩ := h
  exact ⟨rfl, rfl, rfl⟩

/-- Writing no bytes leaves BUF as it is. -/
theorem Memory.write_zero_nil (m : Memory) : m.write 0 [] = m := by
  simp [Memory.write, Memory.cells]

/-- A command without an output operand fills its range of length 0 by leaving BUF as it is. -/
theorem fillsOutput_of_no_output {i : Instr} (ho : i.output s = (0, 0)) (herr : t.err = s.err)
    (hbuf : t.buf = s.buf) (hresult : t.result = 0) : i.FillsOutput s t := by
  refine ⟨[], ?_, herr, ?_, ?_⟩
  · rw [ho]; rfl
  · rw [ho, Memory.write_zero_nil, hbuf]
  · rw [ho, hresult]; rfl

/-- A command that stores its output and completes with the length fills its range. -/
theorem fillsOutput_of_stored {i : Instr} {a n : Nat} {out : Bytes} (ho : i.output s = (a, n))
    (hl : out.length = n) : i.FillsOutput s ((s.storeBytes a out).completed n) := by
  refine ⟨out, ?_, rfl, ?_, ?_⟩
  · rw [ho, hl]
  · rw [ho]; rfl
  · rw [ho]; rfl

/-- From a state that meets the invariant every command ends with an error and BUF as it was, or
fills its output range. -/
theorem exec_endsInError_or_fillsOutput {i : Instr} (hs : s.Inv) (h : exec i s = .next t) :
    s.EndsInError t ∨ i.FillsOutput s t := by
  cases i with
  | nop | hashReset | hsAbort => cases h; exact .inr (fillsOutput_of_no_output rfl rfl rfl rfl)
  | hashUpdate =>
    rcases execHashUpdate_eq_next h with hf | ⟨data, -, rfl⟩
    · exact .inl hf.endsInError
    · exact .inr (fillsOutput_of_no_output rfl rfl rfl rfl)
  | hashFinal =>
    rcases execHashFinal_eq_next h with hf | ⟨-, rfl⟩
    · exact .inl hf.endsInError
    · exact .inr ⟨_, length_hfinalBytes _, rfl, rfl, rfl⟩
  | hashExpand =>
    rcases execHashExpand_eq_next h with hf | ⟨-, m, -, rfl⟩
    · exact .inl hf.endsInError
    · exact .inr (fillsOutput_of_stored rfl (length_expand ..))
  | aesKeysched =>
    rcases execAesKeysched_eq_next h with hf | ⟨-, key, -, rfl⟩
    · exact .inl hf.endsInError
    · exact .inr (fillsOutput_of_no_output rfl rfl rfl rfl)
  | aesEncBlock seeded =>
    rcases blockCommand_eq_next h with hf | ⟨hc, b, seed, -, -, rfl⟩
    · exact .inl hf.endsInError
    · obtain ⟨hv, -⟩ := (blockCheck_eq_none s seeded).mp hc
      exact .inr (fillsOutput_of_stored rfl (length_encblk (hs.keys_sound hv) _))
  | aesDecBlock seeded =>
    rcases blockCommand_eq_next h with hf | ⟨hc, b, seed, -, hseed, rfl⟩
    · exact .inl hf.endsInError
    · obtain ⟨hv, -⟩ := (blockCheck_eq_none s seeded).mp hc
      have hb : (decblk s.sched.keys b).length = 16 := length_decblk (hs.keys_sound hv) b
      have hout := length_seedInto seed _ fun x hx => (hseed x hx).trans hb.symm
      exact .inr (fillsOutput_of_stored rfl (hout.trans hb))
  | aesChainEnc zeroIv =>
    rcases chainCommand_eq_next h with hf | ⟨hc, p, f, hp, hiv, rfl⟩
    · exact .inl hf.endsInError
    · obtain ⟨hv, -⟩ := (chainCheck_eq_none s zeroIv).mp hc
      exact .inr (fillsOutput_of_stored rfl ((length_chainenc (hs.keys_sound hv) p hiv).trans hp))
  | aesChainDec zeroIv =>
    rcases chainCommand_eq_next h with hf | ⟨hc, c, f, hl, hiv, rfl⟩
    · exact .inl hf.endsInError
    · obtain ⟨hv, -⟩ := (chainCheck_eq_none s zeroIv).mp hc
      exact .inr (fillsOutput_of_stored rfl ((length_chaindec (hs.keys_sound hv) c hiv).trans hl))
  | aesMac =>
    rcases execAesMac_eq_next h with hf | ⟨hv, -, m, -, rfl⟩
    · exact .inl hf.endsInError
    · exact .inr (fillsOutput_of_stored rfl (length_mac (hs.keys_sound hv) m))
  | rsaPriv | rsaPub =>
    rcases rsaCommand_eq_next h with hf | ⟨-, x, y, -, hy, rfl⟩
    · exact .inl hf.endsInError
    · exact .inr (fillsOutput_of_stored rfl (length_of_rsa hy))
  | kmLoad =>
    rcases execKmLoad_eq_next h with hf | ⟨-, image, km, -, -, rfl⟩
    · exact .inl hf.endsInError
    · exact .inr (fillsOutput_of_no_output rfl rfl rfl rfl)
  | hsStart =>
    rcases execHsStart_eq_next h with hf | ⟨-, rfl⟩
    · exact .inl hf.endsInError
    · exact .inr (fillsOutput_of_no_output rfl rfl rfl rfl)
  | hsCert =>
    rcases execHsCert_eq_next h with hf | rfl | ⟨hst, -, hcl, sig, hsig, rfl⟩
    · exact .inl hf.endsInError
    · exact .inl ⟨rfl, rfl, rfl⟩
    · have hv : s.km.valid = true := hs.km_valid (by rw [hst]; rfl)
      have hn : (s.drawn 16).length = 16 := by simp [State.drawn]
      exact .inr ⟨_, hs.length_certMessage hv hcl hn hsig, rfl, rfl, rfl⟩
  | hsResponse =>
    rcases execHsResponse_eq_next h with hf | ⟨-, r, x, mh, -, -, -, rfl⟩
    · exact .inl hf.endsInError
    · exact .inr (fillsOutput_of_no_output rfl rfl rfl rfl)
  | hsConfirm =>
    rcases execHsConfirm_eq_next h with hf | ⟨hst, -, rfl⟩
    · exact .inl hf.endsInError
    · obtain ⟨-, hskey, -⟩ := hs.session_of hst
      exact .inr ⟨_, length_confirmMessage hskey, rfl, rfl, rfl⟩
  | hsOpen =>
    rcases execHsOpen_eq_next h with hf | ⟨-, rfl⟩
    · exact .inl hf.endsInError
    · exact .inr (fillsOutput_of_no_output rfl rfl rfl rfl)

/-- The length of an output range is a fixed one or an argument, and so fits in RESULT. -/
theorem output_length_lt (i : Instr) (s : State) : (i.output s).2 < 2 ^ 32 := by
  cases i with
  | hashExpand | rsaPriv | rsaPub | aesChainEnc _ | aesChainDec _ => exact BitVec.isLt _
  | _ => simp [Instr.output]

end Sys2Proof.Machine

open Sys2Proof Sys2Proof.Machine

/-- Settles O33: after an error BUF is as before, and otherwise the output range alone is filled. -/
theorem outputRangeAndResult : Obligations.OutputRangeAndResult := by
  intro i s t hs herr h
  rcases exec_endsInError_or_fillsOutput hs h with
    ⟨hte, hbuf, hresult⟩ | ⟨out, hl, hte, hbuf, hresult⟩
  · exact ⟨fun x _ => by rw [hbuf], fun _ => ⟨hbuf, hresult⟩,
      fun hne => by simp [hte] at hne⟩
  · refine ⟨fun x hx => ?_, fun he => by simp [hte, herr] at he, fun _ => ?_⟩
    · rw [hbuf, Memory.read_write_outside _ _ _ _ (hl ▸ hx)]
    · rw [hresult, BitVec.toNat_ofNat, Nat.mod_eq_of_lt (output_length_lt i s)]
end

section
/-! SUPPORT. The command word: which words the decoder accepts, and as which command. -/

namespace Sys2Proof

/-! ## The opcode table -/

section
variable {s z : Bool} {j : Instr}

@[simp] theorem decodePlain_eq_ok_iff {i : Instr} :
    decodePlain s z i = .ok j ↔ i = j ∧ s = false ∧ z = false := by
  cases s <;> cases z <;> simp [decodePlain]

@[simp] theorem decodeSeeded_eq_ok_iff {i : Bool → Instr} :
    decodeSeeded s z i = .ok j ↔ i s = j ∧ z = false := by
  cases z <;> simp [decodeSeeded]

@[simp] theorem decodeChained_eq_ok_iff {i : Bool → Instr} :
    decodeChained s z i = .ok j ↔ i z = j ∧ s = false := by
  cases s <;> simp [decodeChained]

end

/-- The table finds a command exactly where OP, S and Z are the command's own
(spec/30_encoding.md R94). -/
theorem decodeOp_eq_ok_iff (op : Nat) (s z : Bool) (i : Instr) :
    decodeOp op s z = .ok i ↔ op = i.opcode.toNat ∧ s = i.seedBit ∧ z = i.zeroBit := by
  constructor
  · intro h
    unfold decodeOp at h
    split at h
    case h_21 => cases h
    all_goals
      simp only [decodePlain_eq_ok_iff, decodeSeeded_eq_ok_iff, decodeChained_eq_ok_iff] at h
      obtain ⟨rfl, hbits⟩ := h
      simp [hbits, Instr.opcode, Instr.seedBit, Instr.zeroBit]
  · rintro ⟨rfl, rfl, rfl⟩
    cases i <;> rfl

/-- The opcodes that the table assigns (spec/30_encoding.md R94). -/
def assignedOps : List Nat :=
  [0x00, 0x01, 0x02, 0x03, 0x04, 0x10, 0x11, 0x12, 0x13, 0x14, 0x15, 0x20, 0x21, 0x30, 0x40, 0x41,
    0x42, 0x43, 0x44, 0x45]

/-- The table finds a command exactly when OP is assigned, and S and Z are 1 only where the opcode
defines them (spec/30_encoding.md R93). -/
theorem exists_decodeOp_eq_ok_iff (op : Nat) (s z : Bool) :
    (∃ i, decodeOp op s z = .ok i) ↔ op ∈ assignedOps ∧ (s = true → op = 0x11 ∨ op = 0x12) ∧
      (z = true → op = 0x13 ∨ op = 0x14) := by
  unfold decodeOp
  split
  case h_21 => simp_all [assignedOps]
  all_goals simp [assignedOps]

/-! ## The fields of a word -/

/-- A word is determined by the fields of the one format (spec/30_encoding.md R90). -/
theorem Word.eq_iff_fields (w v : Word) : w = v ↔ w.toNat % 256 = v.toNat % 256 ∧
    w.getLsbD 8 = v.getLsbD 8 ∧ w.getLsbD 9 = v.getLsbD 9 ∧ w >>> 10 = v >>> 10 := by
  constructor
  · rintro rfl
    exact ⟨rfl, rfl, rfl, rfl⟩
  · rintro ⟨hop, hs, hz, hreserved⟩
    have hlow : w.setWidth 8 = v.setWidth 8 := BitVec.eq_of_toNat_eq (by simpa using hop)
    refine BitVec.eq_of_getLsbD_eq fun k hk => ?_
    rcases lt_or_ge k 8 with hk | hk
    · simpa [hk] using congrArg (BitVec.getLsbD · k) hlow
    · obtain rfl | rfl | ⟨m, rfl⟩ : k = 8 ∨ k = 9 ∨ ∃ m, k = 10 + m := by
        rcases Nat.lt_or_ge k 10 with h | h
        · omega
        · exact .inr (.inr (Nat.exists_eq_add_of_le h))
      · exact hs
      · exact hz
      · simpa using congrArg (BitVec.getLsbD · m) hreserved

/-- The fields of a command's word are OP, S and Z of the command, and zeros
(spec/30_encoding.md R90, R92). -/
theorem encode_fields (i : Instr) : (encode i).toNat % 256 = i.opcode.toNat ∧
    (encode i).getLsbD 8 = i.seedBit ∧ (encode i).getLsbD 9 = i.zeroBit ∧ encode i >>> 10 = 0 := by
  cases i with
  | aesEncBlock b | aesDecBlock b | aesChainEnc b | aesChainDec b => cases b <;> decide
  | _ => decide

theorem eq_encode_iff (w : Word) (i : Instr) : w = encode i ↔ w.toNat % 256 = i.opcode.toNat ∧
    w.getLsbD 8 = i.seedBit ∧ w.getLsbD 9 = i.zeroBit ∧ w >>> 10 = 0 := by
  obtain ⟨hop, hs, hz, hreserved⟩ := encode_fields i
  rw [Word.eq_iff_fields, hop, hs, hz, hreserved]

/-- Bits 31:10 are 0 as a number exactly when each of them is 0. -/
theorem Word.shiftRight_ten_eq_zero_iff (w : Word) :
    w >>> 10 = 0 ↔ ∀ k, 10 ≤ k → k < 32 → w.getLsbD k = false := by
  constructor
  · intro h k hlo _
    obtain ⟨m, rfl⟩ := Nat.exists_eq_add_of_le hlo
    simpa using congrArg (BitVec.getLsbD · m) h
  · intro h
    refine BitVec.eq_of_getLsbD_eq fun m _ => ?_
    rw [BitVec.getLsbD_ushiftRight]
    rcases Nat.lt_or_ge (10 + m) 32 with hm | hm
    · simpa using h (10 + m) (Nat.le_add_right 10 m) hm
    · simpa using BitVec.getLsbD_of_ge w (10 + m) hm

/-! ## The decoder -/

/-- A word decodes to the command that the table finds, if bits 31:10 are 0
(spec/30_encoding.md R95). -/
theorem decode_eq_ok_iff (w : Word) (i : Instr) : decode w = .ok i ↔
    decodeOp (w.toNat % 256) (w.getLsbD 8) (w.getLsbD 9) = .ok i ∧ w >>> 10 = 0 := by
  unfold decode
  cases decodeOp (w.toNat % 256) (w.getLsbD 8) (w.getLsbD 9) with
  | error e => simp
  | ok j => by_cases h : w >>> 10 = 0#32 <;> simp [h]

/-- The legal words (spec/30_encoding.md R93). -/
theorem exists_decode_eq_ok_iff (w : Word) : (∃ i, decode w = .ok i) ↔
    w.toNat % 256 ∈ assignedOps ∧ (∀ k, 10 ≤ k → k < 32 → w.getLsbD k = false) ∧
      (w.getLsbD 8 = true → w.toNat % 256 = 0x11 ∨ w.toNat % 256 = 0x12) ∧
      (w.getLsbD 9 = true → w.toNat % 256 = 0x13 ∨ w.toNat % 256 = 0x14) := by
  simp only [decode_eq_ok_iff, exists_and_right, exists_decodeOp_eq_ok_iff,
    Word.shiftRight_ten_eq_zero_iff]
  tauto

/-- The illegal words (spec/30_encoding.md R93). -/
theorem exists_decode_eq_error_iff (w : Word) : (∃ e, decode w = .error e) ↔
    w.toNat % 256 ∉ assignedOps ∨ (∃ k, 10 ≤ k ∧ k < 32 ∧ w.getLsbD k = true) ∨
      (w.getLsbD 8 = true ∧ w.toNat % 256 ≠ 0x11 ∧ w.toNat % 256 ≠ 0x12) ∨
      (w.getLsbD 9 = true ∧ w.toNat % 256 ≠ 0x13 ∧ w.toNat % 256 ≠ 0x14) := by
  have herror : (∃ e, decode w = .error e) ↔ ¬∃ i, decode w = .ok i := by cases decode w <;> simp
  rw [herror, exists_decode_eq_ok_iff]
  simp only [not_and_or, not_forall, not_or, exists_prop, Bool.not_eq_false, ne_eq]

end Sys2Proof

namespace Sys2Proof.Machine

/-- With no command in flight a write to CMD is an acceptance (spec/10_state.md R40). -/
theorem State.writeRegister_cmd_of_not_busy {s : State} (hbusy : s.busy = false) (v : Word) :
    s.writeRegister 0x00C v = s.acceptCommand v :=
  if_neg (by simp [hbusy])

theorem State.hostStore_cmd_of_not_busy {s : State} (hbusy : s.busy = false) (v : Word) :
    s.hostStore 4 (.window 0x00C) v = .next (s.acceptCommand v) := by
  rw [s.hostStore_register (by decide) (by decide), State.writeRegister_cmd_of_not_busy hbusy]

/-- An illegal word completes with ILLEGAL_CMD (spec/30_encoding.md R93). -/
theorem engineStep_of_decode_eq_error {s : State} {e : DecodeError}
    (h : decode s.curCmd = .error e) : engineStep s = .next (s.errored .illegalCmd) := by
  rw [engineStep, h]

end Sys2Proof.Machine

open Sys2Proof Sys2Proof.Machine

/-- Settles O1: both sides say that the fields of the word are those of the command. -/
theorem decodeInvertsEncode : Obligations.DecodeInvertsEncode := by
  intro w i
  rw [decode_eq_ok_iff, decodeOp_eq_ok_iff, eq_encode_iff, and_assoc, and_assoc]

/-- Settles O2: a word is illegal when one of the checks of R93 fails, and it is accepted and
completed as any CMD write and any error are. -/
theorem illegalWordsCompleteWithIllegalCmd : Obligations.IllegalWordsCompleteWithIllegalCmd := by
  intro s w
  refine ⟨exists_decode_eq_error_iff w, fun hbusy => State.hostStore_cmd_of_not_busy hbusy w, ?_⟩
  rintro ⟨e, he⟩ rfl
  exact engineStep_of_decode_eq_error he

/-- Settles O3: each word is the encoding of its command, so O1 gives the decoding. -/
theorem wordsOfTheOpcodeTable : Obligations.WordsOfTheOpcodeTable := by
  simp only [Obligations.WordsOfTheOpcodeTable, decodeInvertsEncode _ _]
  decide
end

section
/-! SUPPORT. The script statement `exec`: its stores one after the other, the acceptance and the
command. -/

namespace Sys2Proof.Machine

/-! ## Runs -/

section
variable (M : Host.Core) {s t : M.State}

/-- A run goes on from the state that its first step answers. -/
theorem run_succ_of_step (h : M.step s = .next t) (n : Nat) : M.run (n + 1) s = M.run n t := by
  simp only [Host.Core.run, h]

theorem run_one (s : M.State) : M.run 1 s = M.step s := by
  simp only [Host.Core.run]
  cases M.step s <;> rfl

end

/-- Registers stand at word offsets of the window's lower half (spec/10_state.md R21). -/
theorem offset_aligned (r : Register) : r.offset < 0x1000 ∧ r.offset % 4 = 0 := by
  cases r <;> decide

/-- The Host's store to a register, as a step (spec/30_encoding.md R98). -/
theorem step_storeRegister {s : State} {r : Register} {v : Word} {rest : List HostOp}
    (hbusy : s.busy = false) (hs : s.script = storeRegister r v :: rest) :
    step s = .next (State.writeRegister { s with script := rest } r.offset v) := by
  obtain ⟨haccess, -, -⟩ := stepMakesTheNextHostAccess s
  obtain ⟨hlt, hmod⟩ := offset_aligned r
  rw [haccess _ rest hbusy hs]
  exact State.hostStore_register _ hlt hmod v

/-! ## The argument stores -/

/-- The register ARGk. -/
def argRegister : Fin 5 → Register
  | 0 => .arg0
  | 1 => .arg1
  | 2 => .arg2
  | 3 => .arg3
  | 4 => .arg4

theorem offset_argRegister (k : Fin 5) : (argRegister k).offset = 0x010 + 4 * k.val := by
  fin_cases k <;> rfl

/-- The stores of a list of `aN=` items (spec/30_encoding.md R99). -/
def argOps (items : List (Fin 5 × Option Word)) : List HostOp :=
  items.flatMap fun item => argItem (argRegister item.1) item.2

/-- `exec` stores its items in the order a0 to a4, then the command word. -/
theorem execOps_eq (i : Instr) (a0 a1 a2 a3 a4 : Option Word) : execOps i a0 a1 a2 a3 a4 =
    argOps [(0, a0), (1, a1), (2, a2), (3, a3), (4, a4)] ++
      [storeRegister .cmd (encode i), .wait] := by
  simp [execOps, argOps, argRegister]

/-- The argument registers after an `aN=` item, present or not (spec/30_encoding.md R99). -/
def Args.withItem (a : Args) (item : Fin 5 × Option Word) : Args :=
  a.set item.1 (item.2.getD (a.at item.1))

theorem Args.withItem_none (a : Args) (k : Fin 5) : a.withItem (k, none) = a := by
  fin_cases k <;> rfl

/-- A list of `aN=` items takes one step for each that is present, and stores those. -/
theorem run_argItems (items : List (Fin 5 × Option Word)) {s : State} {rest : List HostOp} (n : Nat)
    (hbusy : s.busy = false) (hs : s.script = argOps items ++ rest) :
    Host.Core.run core (items.countP (·.2.isSome) + n) s =
      Host.Core.run core n { s with args := items.foldl Args.withItem s.args, script := rest } := by
  induction items generalizing s with
  | nil =>
    obtain rfl : s.script = rest := hs
    rw [List.countP_nil, Nat.zero_add, List.foldl_nil]
  | cons item items ih =>
    obtain ⟨k, v | v⟩ := item
    · rw [List.countP_cons_of_neg (by simp), List.foldl_cons, Args.withItem_none]
      exact ih hbusy hs
    · have hstep := step_storeRegister hbusy hs
      rw [offset_argRegister, State.writeRegister_arg] at hstep
      rw [List.countP_cons_of_pos (by simp), Nat.add_right_comm, run_succ_of_step core hstep]
      exact ih hbusy rfl

/-! ## The command -/

/-- With no turn listed a command in flight runs at once (log 2). -/
theorem step_of_no_turns {s : State} {i : Instr} (hbusy : s.busy = true) (hturns : s.turns = [])
    (hi : decode s.curCmd = .ok i) : step s = exec i s := by
  have htail : { s with turns := s.turns.tail } = s := by cases s; cases hturns; rfl
  obtain ⟨hrun, -⟩ := stepRunsTheDecodedCommand s hbusy (.inr (by simp [hturns]))
  rw [hrun i hi, htail]

/-- The CMD store and the Engine's step run the command on the accepted state
(spec/10_state.md R40). -/
theorem run_commandStore {s : State} {i : Instr} {rest : List HostOp} (hbusy : s.busy = false)
    (hturns : s.turns = []) (hs : s.script = storeRegister .cmd (encode i) :: rest) :
    Host.Core.run core 2 s = exec i (State.acceptCommand { s with script := rest } (encode i)) := by
  have hstep := step_storeRegister hbusy hs
  rw [Register.offset,
    State.writeRegister_cmd_of_not_busy (s := { s with script := rest }) hbusy] at hstep
  rw [run_succ_of_step core hstep]
  exact (run_one core _).trans <| step_of_no_turns rfl hturns ((decodeInvertsEncode _ i).mpr rfl)

end Sys2Proof.Machine

open Sys2Proof Sys2Proof.Machine

/-- Settles O9: the argument stores, then the CMD store and the Engine's step. -/
theorem execStatementRunsItsCommand : Obligations.ExecStatementRunsItsCommand := by
  intro s i a0 a1 a2 a3 a4 rest hbusy hturns hs
  rw [Statement.ops, execOps_eq, List.append_assoc] at hs
  exact (run_argItems _ 2 hbusy hs).trans (run_commandStore hbusy hturns rfl)
end

section
/-! SUPPORT. What a command reads of the latched arguments: replacing the ones that its row does not
name, before the command or after it, gives the same outcome. -/

namespace Sys2Proof.Machine

/-- The state with other latched arguments. -/
def State.withLarg (b : Args) (s : State) : State := { s with larg := b }

section
variable {s : State} {b : Args} {i : Instr}

/-! ## The arguments that a command reads -/

/-- An argument that the command's row names is the same number on both sides
(spec/30_encoding.md R97). -/
theorem toNat_larg_withLarg (h : i.SameArgs s.larg b) (k : Fin 5) (hr : i.readsArg k = true) :
    ((s.withLarg b).larg.at k).toNat = (s.larg.at k).toNat :=
  congrArg BitVec.toNat (h k hr).symm

/-! ## The optional operand -/

theorem optionalInbuf_withLarg {present : Bool}
    (h : present = true → (s.withLarg b).arg4 = s.arg4) :
    (s.withLarg b).optionalInbuf present = s.optionalInbuf present := by
  cases present with
  | false => rfl
  | true => exact congrArg (inbuf · 16) (h rfl)

theorem withOptional_withLarg {present : Bool} {k k' : Option Bytes → Result}
    (h : present = true → (s.withLarg b).arg4 = s.arg4)
    (hk : ∀ o, k' o = mapNext (State.withLarg b) (k o)) :
    (s.withLarg b).withOptional present k' =
      mapNext (State.withLarg b) (s.withOptional present k) := by
  cases present with
  | false => exact hk none
  | true =>
    simp only [State.withOptional, h rfl]
    exact State.withBytes_eq_mapNext rfl fun bs => hk (some bs)

/-! ## The commands -/

theorem execHashUpdate_withLarg (h0 : (s.withLarg b).arg0 = s.arg0)
    (h1 : (s.withLarg b).arg1 = s.arg1) :
    execHashUpdate (s.withLarg b) = mapNext (State.withLarg b) (execHashUpdate s) := by
  unfold execHashUpdate
  rw [h0, h1]
  exact ite_eq_mapNext rfl (State.withBytes_eq_mapNext rfl fun _ => rfl)

theorem execHashFinal_withLarg (h2 : (s.withLarg b).arg2 = s.arg2) :
    execHashFinal (s.withLarg b) = mapNext (State.withLarg b) (execHashFinal s) := by
  unfold execHashFinal
  rw [h2]
  exact ite_eq_mapNext rfl rfl

theorem execHashExpand_withLarg (h0 : (s.withLarg b).arg0 = s.arg0)
    (h1 : (s.withLarg b).arg1 = s.arg1) (h2 : (s.withLarg b).arg2 = s.arg2)
    (h3 : (s.withLarg b).arg3 = s.arg3) :
    execHashExpand (s.withLarg b) = mapNext (State.withLarg b) (execHashExpand s) := by
  unfold execHashExpand
  rw [h0, h1, h2, h3]
  exact ite_eq_mapNext rfl (ite_eq_mapNext rfl (State.withBytes_eq_mapNext rfl fun _ => rfl))

theorem execAesKeysched_withLarg (h0 : (s.withLarg b).arg0 = s.arg0)
    (h1 : (s.withLarg b).arg1 = s.arg1) :
    execAesKeysched (s.withLarg b) = mapNext (State.withLarg b) (execAesKeysched s) := by
  unfold execAesKeysched
  rw [h0, h1]
  exact ite_eq_mapNext rfl (ite_eq_mapNext rfl (State.withBytes_eq_mapNext rfl fun _ => rfl))

theorem blockCommand_withLarg {seeded : Bool} (out : Option Bytes → Bytes → Bytes)
    (h0 : (s.withLarg b).arg0 = s.arg0) (h2 : (s.withLarg b).arg2 = s.arg2)
    (h4 : seeded = true → (s.withLarg b).arg4 = s.arg4) :
    blockCommand seeded out (s.withLarg b) =
      mapNext (State.withLarg b) (blockCommand seeded out s) := by
  have hc : blockCheck (s.withLarg b) seeded = blockCheck s seeded := by
    unfold blockCheck
    rw [h0, h2, optionalInbuf_withLarg h4]
    rfl
  unfold blockCommand
  rw [hc, h0, h2]
  split
  · rfl
  · exact State.withBytes_eq_mapNext rfl fun _ => withOptional_withLarg h4 fun _ => rfl

theorem chainCommand_withLarg {zeroIv : Bool} (out : Bytes → Bytes → Bytes)
    (h0 : (s.withLarg b).arg0 = s.arg0) (h1 : (s.withLarg b).arg1 = s.arg1)
    (h2 : (s.withLarg b).arg2 = s.arg2)
    (h4 : (!zeroIv) = true → (s.withLarg b).arg4 = s.arg4) :
    chainCommand zeroIv out (s.withLarg b) =
      mapNext (State.withLarg b) (chainCommand zeroIv out s) := by
  have hc : chainCheck (s.withLarg b) zeroIv = chainCheck s zeroIv := by
    unfold chainCheck
    rw [h0, h1, h2, optionalInbuf_withLarg h4]
    rfl
  unfold chainCommand
  rw [hc, h0, h1, h2]
  split
  · rfl
  · exact withOptional_withLarg h4 fun _ => State.withBytes_eq_mapNext rfl fun _ => rfl

theorem execAesMac_withLarg (h0 : (s.withLarg b).arg0 = s.arg0)
    (h1 : (s.withLarg b).arg1 = s.arg1) (h2 : (s.withLarg b).arg2 = s.arg2) :
    execAesMac (s.withLarg b) = mapNext (State.withLarg b) (execAesMac s) := by
  unfold execAesMac
  rw [h0, h1, h2]
  exact ite_eq_mapNext rfl (ite_eq_mapNext rfl (ite_eq_mapNext rfl
    (State.withBytes_eq_mapNext rfl fun _ => rfl)))

theorem rsaCommand_withLarg (ex : Nat) (h0 : (s.withLarg b).arg0 = s.arg0)
    (h1 : (s.withLarg b).arg1 = s.arg1) (h2 : (s.withLarg b).arg2 = s.arg2)
    (h3 : (s.withLarg b).arg3 = s.arg3) :
    rsaCommand ex (s.withLarg b) = mapNext (State.withLarg b) (rsaCommand ex s) := by
  have hkm : (s.withLarg b).km = s.km := rfl
  unfold rsaCommand
  rw [h0, h1, h2, h3, hkm]
  refine ite_eq_mapNext rfl (ite_eq_mapNext rfl (ite_eq_mapNext rfl
    (State.withBytes_eq_mapNext rfl fun x => ?_)))
  split <;> rfl

theorem execKmLoad_withLarg (h0 : (s.withLarg b).arg0 = s.arg0) :
    execKmLoad (s.withLarg b) = mapNext (State.withLarg b) (execKmLoad s) := by
  unfold execKmLoad
  rw [h0]
  refine ite_eq_mapNext rfl (ite_eq_mapNext rfl (State.withBytes_eq_mapNext rfl fun image => ?_))
  split <;> rfl

theorem certWithNonce_withLarg (p : Params) (nonce : Bytes) (h2 : (s.withLarg b).arg2 = s.arg2) :
    certWithNonce p nonce (s.withLarg b) =
      mapNext (State.withLarg b) (certWithNonce p nonce s) := by
  have hkm : (s.withLarg b).km = s.km := rfl
  unfold certWithNonce
  rw [h2, hkm]
  dsimp only
  split <;> rfl

theorem execHsCert_withLarg (h2 : (s.withLarg b).arg2 = s.arg2) :
    execHsCert (s.withLarg b) = mapNext (State.withLarg b) (execHsCert s) := by
  unfold execHsCert
  rw [h2]
  exact ite_eq_mapNext rfl (ite_eq_mapNext rfl (ite_eq_mapNext rfl (ite_eq_mapNext rfl
    (certWithNonce_withLarg (s := s.afterDraw 16) s.params (s.drawn 16) h2))))

theorem acceptResponse_withLarg (p : Params) (r : Bytes) :
    acceptResponse p r (s.withLarg b) = mapNext (State.withLarg b) (acceptResponse p r s) := by
  have hkm : (s.withLarg b).km = s.km := rfl
  refine ite_eq_mapNext rfl ?_
  rw [hkm]
  split
  · rfl
  dsimp only
  split
  · rfl
  · exact ite_eq_mapNext rfl rfl

theorem execHsResponse_withLarg (h0 : (s.withLarg b).arg0 = s.arg0)
    (h1 : (s.withLarg b).arg1 = s.arg1) :
    execHsResponse (s.withLarg b) = mapNext (State.withLarg b) (execHsResponse s) := by
  unfold execHsResponse
  rw [h0, h1]
  exact ite_eq_mapNext rfl (ite_eq_mapNext rfl (ite_eq_mapNext rfl
    (State.withBytes_eq_mapNext rfl fun r => acceptResponse_withLarg s.params r)))

theorem execHsConfirm_withLarg (h2 : (s.withLarg b).arg2 = s.arg2) :
    execHsConfirm (s.withLarg b) = mapNext (State.withLarg b) (execHsConfirm s) := by
  unfold execHsConfirm
  rw [h2]
  exact ite_eq_mapNext rfl (ite_eq_mapNext rfl rfl)

/-- A command answers the same on latched arguments that agree where its row has an operand
(spec/30_encoding.md R94, R97). -/
theorem exec_withLarg (h : i.SameArgs s.larg b) :
    exec i (s.withLarg b) = mapNext (State.withLarg b) (exec i s) := by
  have arg (k : Fin 5) (hr : i.readsArg k = true) := toNat_larg_withLarg h k hr
  cases i with
  | nop | hashReset | hsAbort => rfl
  | hashUpdate => exact execHashUpdate_withLarg (arg 0 rfl) (arg 1 rfl)
  | hashFinal => exact execHashFinal_withLarg (arg 2 rfl)
  | hashExpand => exact execHashExpand_withLarg (arg 0 rfl) (arg 1 rfl) (arg 2 rfl) (arg 3 rfl)
  | aesKeysched => exact execAesKeysched_withLarg (arg 0 rfl) (arg 1 rfl)
  | aesEncBlock seeded | aesDecBlock seeded =>
    exact blockCommand_withLarg _ (arg 0 rfl) (arg 2 rfl) fun hs =>
      arg 4 (by simp [Instr.readsArg, hs])
  | aesChainEnc zeroIv | aesChainDec zeroIv =>
    exact chainCommand_withLarg _ (arg 0 rfl) (arg 1 rfl) (arg 2 rfl) fun hz =>
      arg 4 (by simp [Instr.readsArg, hz])
  | aesMac => exact execAesMac_withLarg (arg 0 rfl) (arg 1 rfl) (arg 2 rfl)
  | rsaPriv | rsaPub =>
    exact rsaCommand_withLarg _ (arg 0 rfl) (arg 1 rfl) (arg 2 rfl) (arg 3 rfl)
  | kmLoad => exact execKmLoad_withLarg (arg 0 rfl)
  | hsStart => exact ite_eq_mapNext rfl rfl
  | hsCert => exact execHsCert_withLarg (arg 2 rfl)
  | hsResponse => exact execHsResponse_withLarg (arg 0 rfl) (arg 1 rfl)
  | hsConfirm => exact execHsConfirm_withLarg (arg 2 rfl)
  | hsOpen => exact ite_eq_mapNext rfl (ite_eq_mapNext rfl rfl)

end

end Sys2Proof.Machine

open Sys2Proof Sys2Proof.Machine

/-- Settles O25: `State.withLarg` is the replacement of the latched arguments. -/
theorem commandReadsOnlyItsArguments : Obligations.CommandReadsOnlyItsArguments :=
  fun _ _ _ h => exec_withLarg h
end

section
/-! SUPPORT. The HashEngine's functions in closed form: compressing whole blocks of a string, what a
hash state holds after a message, and what the padded tail completes it to. -/

namespace Sys2Proof.Machine

/-! ## Compressing the blocks of a string -/

/-- The accumulator words after the first `n` blocks of the string `t` (spec/40_hash.md R112). -/
def compressBlocks (v : HashWords) (t : Bytes) (n : Nat) : HashWords :=
  (List.range n).foldl (fun v j => compress v (slice t (64 * j) (64 * j + 64))) v

theorem finalWords_eq_compressBlocks (h : HashState) :
    finalWords h = compressBlocks h.h (paddedTail h) ((paddedTail h).length / 64) := rfl

theorem merkleDamgard_eq_compressBlocks (m : Bytes) : merkleDamgard m =
    (compressBlocks HashWords.initial (paddedMessage m) ((paddedMessage m).length / 64)).bytes := rfl

/-- One block more: the first 64 bytes after the ones compressed. -/
theorem compressBlocks_succ (v : HashWords) (t : Bytes) (n : Nat) : compressBlocks v t (n + 1) =
    compress (compressBlocks v t n) ((t.drop (64 * n)).take 64) := by
  simp [compressBlocks, List.range_succ, slice]

/-- Compressing can stop after any block and go on with the rest of the string. -/
theorem compressBlocks_add (v : HashWords) (t : Bytes) (n k : Nat) : compressBlocks v t (n + k) =
    compressBlocks (compressBlocks v t n) (t.drop (64 * n)) k := by
  induction k with
  | zero => simp [compressBlocks]
  | succ k ih =>
    rw [← Nat.add_assoc, compressBlocks_succ, compressBlocks_succ, ih, List.drop_drop,
      ← Nat.mul_add]

/-- What follows the blocks compressed is not read. -/
theorem compressBlocks_append (v : HashWords) {t : Bytes} (u : Bytes) {n : Nat}
    (hn : 64 * n ≤ t.length) : compressBlocks v (t ++ u) n = compressBlocks v t n := by
  induction n with
  | zero => simp [compressBlocks]
  | succ n ih =>
    rw [compressBlocks_succ, compressBlocks_succ, ih (by omega),
      List.drop_append_of_le_length (by omega),
      List.take_append_of_le_length (by rw [List.length_drop]; omega)]

/-! ## Feeding bytes -/

/-- The counter is a whole number of bytes: `CNT / 8 mod 64` (spec/10_state.md R32). -/
theorem HashState.pending_eq (h : HashState) : h.pending = h.cnt.toNat / 8 % 64 := by
  rw [HashState.pending, BitVec.toNat_ushiftRight, Nat.shiftRight_eq_div_pow]

/-- Hash state `h` has been fed exactly the string `m` since its reset: the whole blocks of `m` are
compressed, the bytes after them are pending, and the bits are counted modulo 2^64. -/
structure HashState.Absorbed (h : HashState) (m : Bytes) : Prop where
  /-- BLK has its 64 bytes. -/
  blk_length : h.blk.length = 64
  /-- CNT counts the bits of `m`. -/
  cnt_eq : h.cnt = BitVec.ofNat 64 (8 * m.length)
  /-- H is the accumulator after the whole blocks of `m`. -/
  words_eq : h.h = compressBlocks HashWords.initial m (m.length / 64)
  /-- BLK begins with what follows the whole blocks of `m`. -/
  rest_eq : h.blk.take (m.length % 64) = m.drop (64 * (m.length / 64))

/-- The pending count survives the wrap of CNT, since 64 bytes divide 2^64 bits. -/
theorem HashState.Absorbed.pending_eq {h : HashState} {m : Bytes} (ha : h.Absorbed m) :
    h.pending = m.length % 64 := by
  rw [HashState.pending_eq, ha.cnt_eq, BitVec.toNat_ofNat]
  omega

/-- A reset hash state has been fed nothing, whatever its pending block holds. -/
theorem HashState.absorbed_hreset {h : HashState} (hl : h.blk.length = 64) :
    (hreset h).Absorbed [] :=
  ⟨hl, rfl, rfl, rfl⟩

/-- Setting the byte at a place and taking the bytes up to it appends it to the ones before. -/
theorem take_succ_set {l : Bytes} {p : Nat} (hp : p < l.length) (x : Byte) :
    (l.set p x).take (p + 1) = l.take p ++ [x] := by
  simp [List.take_add_one, List.take_set_of_le, hp]

/-- One byte more: it goes to the pending place, and a block that it completes is compressed. -/
theorem HashState.Absorbed.hupdateByte {h : HashState} {m : Bytes} (ha : h.Absorbed m) (x : Byte) :
    (hupdateByte h x).Absorbed (m ++ [x]) := by
  have hlen : (m ++ [x]).length = m.length + 1 := List.length_append
  have hp := ha.pending_eq
  have hrest : (h.blk.set (m.length % 64) x).take (m.length % 64 + 1) =
      (m ++ [x]).drop (64 * (m.length / 64)) := by
    rw [take_succ_set (by rw [ha.blk_length]; omega), ha.rest_eq,
      List.drop_append_of_le_length (by omega)]
  have hblocks : compressBlocks HashWords.initial (m ++ [x]) (m.length / 64) = h.h := by
    rw [compressBlocks_append _ _ (by omega), ha.words_eq]
  have hcnt : (Machine.hupdateByte h x).cnt = BitVec.ofNat 64 (8 * (m ++ [x]).length) := by
    change h.cnt + 8 = _
    rw [ha.cnt_eq, hlen, Nat.mul_succ, BitVec.ofNat_add]
    rfl
  have hblk : (Machine.hupdateByte h x).blk.length = 64 := by
    simp [Machine.hupdateByte, ha.blk_length]
  rcases (show m.length % 64 < 63 ∨ m.length % 64 = 63 by omega) with hlt | hfull
  · have hdiv : (m ++ [x]).length / 64 = m.length / 64 := by omega
    have hmod : (m ++ [x]).length % 64 = m.length % 64 + 1 := by omega
    refine ⟨hblk, hcnt, ?_, ?_⟩
    · rw [hdiv, hblocks]
      simp [Machine.hupdateByte, hp, hlt.ne]
    · rw [hdiv, hmod, ← hrest, ← hp]
      rfl
  · have hdiv : (m ++ [x]).length / 64 = m.length / 64 + 1 := by omega
    have hmod : (m ++ [x]).length % 64 = 0 := by omega
    refine ⟨hblk, hcnt, ?_, ?_⟩
    · rw [hdiv, compressBlocks_succ, hblocks, ← hrest, hfull]
      simp [Machine.hupdateByte, hp, hfull, List.take_of_length_le, ha.blk_length]
    · rw [hmod, hdiv, List.take_zero, List.drop_eq_nil_of_le (by omega)]

theorem HashState.Absorbed.hupdate {h : HashState} {m : Bytes} (ha : h.Absorbed m) (data : Bytes) :
    (hupdate h data).Absorbed (m ++ data) := by
  induction data generalizing h m with
  | nil => rw [List.append_nil]; exact ha
  | cons x data ih => rw [List.append_cons]; exact ih (ha.hupdateByte x)

/-- Feeding a list of strings is feeding their concatenation. -/
theorem foldl_hupdate (h : HashState) (parts : List Bytes) :
    parts.foldl hupdate h = hupdate h parts.flatten := by
  induction parts generalizing h with
  | nil => rfl
  | cons part parts ih => rw [List.foldl_cons, ih, List.flatten_cons, hupdate_append]

/-! ## Padding -/

/-- The padded tail as one string: the zero bytes fill up to the last 8 of a block, of the next one
when fewer than 8 are left (spec/40_hash.md R114). -/
theorem paddedTail_eq {h : HashState} (hl : h.blk.length = 64) : paddedTail h =
    h.blk.take h.pending ++ [0x80] ++ zeros ((119 - h.pending) % 64) ++ be64 h.cnt := by
  have hp : h.pending < 64 := Nat.mod_lt _ (by decide)
  have ht : (h.blk.take h.pending ++ [0x80]).length = h.pending + 1 := by
    simp [hl, hp.le]
  simp only [paddedTail, ht]
  split
  · rw [show 128 - (h.pending + 1) - 8 = (119 - h.pending) % 64 by omega]
  · rw [show 64 - (h.pending + 1) - 8 = (119 - h.pending) % 64 by omega]

/-- The padded tail of a hash state is what follows the whole blocks in the padded message. -/
theorem HashState.Absorbed.paddedTail_eq {h : HashState} {m : Bytes} (ha : h.Absorbed m) :
    paddedTail h = (paddedMessage m).drop (64 * (m.length / 64)) := by
  rw [Machine.paddedTail_eq ha.blk_length, ha.pending_eq, ha.rest_eq, ha.cnt_eq, paddedMessage]
  have hle : 64 * (m.length / 64) ≤ m.length := by omega
  simp only [List.append_assoc, List.drop_append_of_le_length hle]

/-- What was fed is finalised to its Merkle-Damgard digest. -/
theorem HashState.Absorbed.hfinalBytes_eq {h : HashState} {m : Bytes} (ha : h.Absorbed m) :
    hfinalBytes h = merkleDamgard m := by
  have hle : 64 * (m.length / 64) ≤ m.length := by omega
  have hpre : compressBlocks HashWords.initial (paddedMessage m) (m.length / 64) = h.h := by
    simp only [paddedMessage, List.append_assoc]
    rw [compressBlocks_append _ _ hle, ha.words_eq]
  have hcount : (paddedMessage m).length / 64 =
      m.length / 64 + (paddedTail h).length / 64 := by
    have hlen : m.length ≤ (paddedMessage m).length := by simp [paddedMessage]
    rw [ha.paddedTail_eq, List.length_drop]
    omega
  rw [hfinalBytes, finalWords_eq_compressBlocks, merkleDamgard_eq_compressBlocks, hcount,
    compressBlocks_add, hpre, ← ha.paddedTail_eq]

theorem digest_eq_merkleDamgard (m : Bytes) : digest m = merkleDamgard m :=
  ((HashState.absorbed_hreset HashState.initial_sound.blk_length).hupdate m).hfinalBytes_eq

/-! ## The expansion -/

/-- Byte `j` of a sequence of blocks of one length. -/
theorem byteAt_flatMap_range {f : Nat → Bytes} {L : Nat} (hf : ∀ i, (f i).length = L) {n j : Nat}
    (hj : j < n * L) : byteAt ((List.range n).flatMap f) j = byteAt (f (j / L)) (j % L) := by
  induction n with
  | zero => omega
  | succ n ih =>
    have hlen : ((List.range n).flatMap f).length = n * L := by
      simp [List.length_flatMap, hf]
    rw [Nat.succ_mul] at hj
    simp only [List.range_succ, List.flatMap_append, List.flatMap_singleton, byteAt,
      List.getD_eq_getElem?_getD] at ih ⊢
    rcases Nat.lt_or_ge j (n * L) with h | h
    · rw [List.getElem?_append_left (by omega), ih h]
    · obtain ⟨d, rfl⟩ := Nat.exists_eq_add_of_le h
      have hd : d < L := by omega
      rw [List.getElem?_append_right (by omega), hlen, Nat.add_sub_cancel_left,
        Nat.mul_comm, Nat.mul_add_div (by omega), Nat.div_eq_of_lt hd, Nat.mul_add_mod,
        Nat.mod_eq_of_lt hd, Nat.add_zero]

/-- The 4-byte encoding of a counter, whose bytes above 32 bits are dropped either way. -/
theorem be32_ofNat (i : Nat) : be32 (BitVec.ofNat 32 i) = beBytes i 4 :=
  beBytes_mod i 4 4 le_rfl

/-- Byte `j` of the expansion is byte `j mod 20` of the digest with the counter `j / 20`
(spec/40_hash.md R116). -/
theorem byteAt_expand (m : Bytes) {n j : Nat} (hj : j < n) :
    byteAt (expand m n) j = byteAt (merkleDamgard (m ++ beBytes (j / 20) 4)) (j % 20) := by
  have hblocks : j < (n + 19) / 20 * 20 := by omega
  have htake (s : Bytes) : byteAt (s.take n) j = byteAt s j := by
    simp [byteAt, List.getD_eq_getElem?_getD, List.getElem?_take_of_lt hj]
  rw [expand, htake, byteAt_flatMap_range (fun _ => length_digest _) hblocks, be32_ofNat,
    digest_eq_merkleDamgard]

/-! ## The commands on operands that BUF holds -/

theorem execHashUpdate_of_holds {s : State} {data : Bytes} (hin : s.arg0 + s.arg1 ≤ 4096)
    (hl : data.length = s.arg1) (hd : s.buf.Holds s.arg0 data) :
    execHashUpdate s = .next (State.completed { s with hash := hupdate s.hash data } 0) := by
  rw [execHashUpdate, (inbuf_iff ..).mpr hin, State.withBytes_of_holds _ hd hl]
  rfl

theorem execHashFinal_of_inbuf {s : State} (hout : s.arg2 + 20 ≤ 4096) :
    execHashFinal s = .next (State.completed
      (State.storeBytes { s with hash := hfinalState s.hash } s.arg2 (hfinalBytes s.hash)) 20) := by
  rw [execHashFinal, (inbuf_iff ..).mpr hout]
  rfl

theorem execHashExpand_of_holds {s : State} {m : Bytes} (hin : s.arg0 + s.arg1 ≤ 4096)
    (hout : s.arg2 + s.arg3 ≤ 4096) (hl : m.length = s.arg1) (hm : s.buf.Holds s.arg0 m) :
    execHashExpand s = .next ((s.storeBytes s.arg2 (expand m s.arg3)).completed s.arg3) := by
  rw [execHashExpand, (inbuf_iff ..).mpr hin, (inbuf_iff ..).mpr hout,
    State.withBytes_of_holds _ hm hl]
  rfl

end Sys2Proof.Machine

open Sys2Proof Sys2Proof.Machine

/-- Settles O34: an update keeps `HashState.Absorbed`, and the padded tail completes the blocks. -/
theorem streamedDigestIsMerkleDamgard : Obligations.StreamedDigestIsMerkleDamgard := by
  refine ⟨fun h parts hl => ?_, digest_eq_merkleDamgard⟩
  rw [foldl_hupdate]
  exact ((HashState.absorbed_hreset hl).hupdate parts.flatten).hfinalBytes_eq

/-- Settles O36: the statement's fold is `hupdate`, with the pending place read off CNT. -/
theorem hashUpdateFeedsTheOperand : Obligations.HashUpdateFeedsTheOperand := by
  intro s data hin hl hd
  rw [show exec .hashUpdate s = execHashUpdate s from rfl, execHashUpdate_of_holds hin hl hd]
  simp only [← HashState.pending_eq]
  rfl

/-- Settles O37. -/
theorem hashFinalWritesTheDigest : Obligations.HashFinalWritesTheDigest := fun s hout =>
  ⟨length_hfinalBytes s.hash, _, execHashFinal_of_inbuf hout,
    Memory.stored_write s.buf s.arg2 (hfinalBytes s.hash), rfl⟩

/-- Settles O38: the bytes are those of `expand`, by the digest of O34 at each counter. -/
theorem hashExpandWritesTheKeystream : Obligations.HashExpandWritesTheKeystream := by
  intro s m hin hout hl hm
  refine ⟨_, expand m s.arg3, execHashExpand_of_holds hin hout hl hm, length_expand m s.arg3,
    fun j hj => byteAt_expand m hj, Memory.stored_write s.buf s.arg2 _, ?_⟩
  simp [State.completed, State.storeBytes, State.arg3]
end

section
/-! SUPPORT. The field of the cipher: the product of spec/41_cipher.md R141 is bilinear and
associative, so an inverse is the only one; and the two substitution tables. -/

namespace Sys2Proof.Machine

/-! ## The product -/

theorem byte_xor_left_comm (a b c : Byte) : a ^^^ (b ^^^ c) = b ^^^ (a ^^^ c) := by ac_rfl

theorem xtime_zero : xtime 0#8 = 0#8 := by decide

theorem xtime_xor (a b : Byte) : xtime (a ^^^ b) = xtime a ^^^ xtime b := by
  rw [xtime, xtime, xtime, BitVec.getLsbD_xor, BitVec.shiftLeft_xor_distrib]
  cases a.getLsbD 7 <;> cases b.getLsbD 7 <;>
    simp [BitVec.xor_assoc, BitVec.xor_comm, byte_xor_left_comm]

/-- The product is linear in its first factor, term by term. -/
theorem gmulBits_xor_left (a a' : Byte) (bits : List Bool) :
    gmulBits (a ^^^ a') bits = gmulBits a bits ^^^ gmulBits a' bits := by
  induction bits generalizing a a' with
  | nil => simp [gmulBits]
  | cons b bits ih =>
    rw [gmulBits, gmulBits, gmulBits, xtime_xor, ih]
    cases b
    · simp
    · simp only [if_true]; ac_rfl

theorem gmulBits_xor_right (a : Byte) (f g : Nat → Bool) (l : List Nat) :
    gmulBits a (l.map fun i => f i ^^ g i) = gmulBits a (l.map f) ^^^ gmulBits a (l.map g) := by
  induction l generalizing a with
  | nil => simp [gmulBits]
  | cons i l ih =>
    simp only [List.map_cons, gmulBits, ih]
    cases f i <;> cases g i <;> simp [BitVec.xor_assoc, byte_xor_left_comm]

/-- A further bit adds the next term. -/
theorem gmulBits_append_singleton (a : Byte) (bits : List Bool) (b : Bool) :
    gmulBits a (bits ++ [b]) =
      gmulBits a bits ^^^ (if b then Nat.iterate xtime bits.length a else 0) := by
  induction bits generalizing a with
  | nil => cases b <;> simp [gmulBits]
  | cons c bits ih =>
    rw [List.cons_append, gmulBits, gmulBits, ih, List.length_cons, Function.iterate_succ_apply,
      BitVec.xor_assoc]

/-- The product as one XOR over the bits of its second factor (spec/41_cipher.md R141). -/
theorem gmulBits_eq_foldl (a : Byte) (f : Nat → Bool) (n : Nat) :
    gmulBits a ((List.range n).map f) = (List.range n).foldl
      (fun acc j => if f j then acc ^^^ Nat.iterate xtime j a else acc) 0 := by
  induction n with
  | zero => rfl
  | succ n ih =>
    rw [List.range_succ, List.map_append, List.map_singleton, gmulBits_append_singleton, ih,
      List.foldl_append, List.length_map, List.length_range]
    cases hf : f n <;> simp [hf]

theorem gmul_xor_left (a a' b : Byte) : gmul (a ^^^ a') b = gmul a b ^^^ gmul a' b :=
  gmulBits_xor_left ..

theorem gmul_xor_right (a b b' : Byte) : gmul a (b ^^^ b') = gmul a b ^^^ gmul a b' := by
  simp only [gmul, funext (fun i => BitVec.getLsbD_xor (x := b) (y := b') (i := i)),
    gmulBits_xor_right]

theorem gmul_zero_right (a : Byte) : gmul a 0#8 = 0#8 := by simp [gmul, gmulBits, List.range_succ]

theorem gmul_one_right (a : Byte) : gmul a 1 = a := by simp [gmul, gmulBits, List.range_succ]

theorem gmul_one_left (b : Byte) : gmul 1 b = b := by
  revert b; decide +kernel

theorem gmul_zero_left (b : Byte) : gmul 0#8 b = 0#8 := by
  simpa using gmul_xor_left 0#8 0#8 b

theorem gmulBits_xtime (a : Byte) (bits : List Bool) :
    gmulBits (xtime a) bits = xtime (gmulBits a bits) := by
  induction bits generalizing a with
  | nil => simp [gmulBits, xtime_zero]
  | cons b bits ih => cases b <;> simp [gmulBits, ih, xtime_xor]

theorem gmul_xtime_left (a b : Byte) : gmul (xtime a) b = xtime (gmul a b) :=
  gmulBits_xtime ..

/-- The reduction of the shifted-out bit: x^8 is 0x1B (spec/41_cipher.md R141). -/
theorem gmul_reduction (a : Byte) : gmul a 0x1B = Nat.iterate xtime 8 a := by
  revert a; decide +kernel

theorem gmul_xtime_right (a b : Byte) : gmul a (xtime b) = xtime (gmul a b) := by
  have hshift : gmul a (b <<< 1) = gmulBits (xtime a) ((List.range 7).map b.getLsbD) := by
    simp [gmul, gmulBits, List.range_succ]
  have hsplit : gmul (xtime a) b = gmulBits (xtime a) ((List.range 7).map b.getLsbD) ^^^
      (if b.getLsbD 7 then Nat.iterate xtime 8 a else 0) :=
    gmulBits_append_singleton (xtime a) ((List.range 7).map b.getLsbD) (b.getLsbD 7)
  rw [← gmul_xtime_left, hsplit, xtime, gmul_xor_right, hshift]
  cases b.getLsbD 7
  · simp [gmul_zero_right]
  · exact congrArg _ (gmul_reduction a)

/-- The product is associative: multiplying by `a` commutes with the terms of a product. -/
theorem gmul_gmul (a b c : Byte) : gmul a (gmul b c) = gmul (gmul a b) c := by
  suffices h : ∀ bits b, gmul a (gmulBits b bits) = gmulBits (gmul a b) bits from h _ b
  intro bits
  induction bits with
  | nil => exact fun _ => gmul_zero_right a
  | cons t bits ih =>
    intro b
    rw [gmulBits, gmulBits, gmul_xor_right, ih, gmul_xtime_right]
    cases t
    · simp [gmul_zero_right]
    · simp

/-! ## Inverses and the tables -/

/-- The inverse of the affine map A (spec/41_cipher.md R142). -/
def affineInverse (y : Byte) : Byte :=
  y.rotateLeft 1 ^^^ y.rotateLeft 3 ^^^ y.rotateLeft 6 ^^^ 0x05

theorem sboxAffine_affineInverse (y : Byte) : sboxAffine (affineInverse y) = y := by
  revert y; decide +kernel

/-- Undoing the affine map on the S-box gives the inverse, on both sides. -/
theorem gmul_affineInverse_sbox (x : Byte) (hx : x ≠ 0) :
    gmul x (affineInverse (sbox x)) = 1 ∧ gmul (affineInverse (sbox x)) x = 1 := by
  revert x; decide +kernel

/-- A byte has one inverse, since the product is associative. -/
theorem eq_affineInverse_of_gmul_eq_one {x b : Byte} (h : gmul x b = 1) :
    b = affineInverse (sbox x) := by
  have hx : x ≠ 0 := by
    rintro rfl
    exact absurd ((gmul_zero_left b).symm.trans h) (by decide)
  calc b = gmul (gmul (affineInverse (sbox x)) x) b := by
        rw [(gmul_affineInverse_sbox x hx).2, gmul_one_left]
    _ = affineInverse (sbox x) := by rw [← gmul_gmul, h, gmul_one_right]

theorem invSbox_sbox (x : Byte) : invSbox (sbox x) = x := by
  revert x; decide +kernel

end Sys2Proof.Machine

open Sys2Proof Sys2Proof.Machine

/-- Settles O39: an inverse is the byte that the affine map takes to the table's entry. -/
theorem substitutionTables : Obligations.SubstitutionTables :=
  ⟨fun x b h => by rw [eq_affineInverse_of_gmul_eq_one h, sboxAffine_affineInverse], by decide,
    fun x hx => ⟨affineInverse (sbox x), (gmul_affineInverse_sbox x hx).1⟩, invSbox_sbox,
    fun x b => ⟨rfl, gmulBits_eq_foldl x b.getLsbD 8⟩⟩
end

section
/-! SUPPORT. The key schedule: the recurrence of the expanded key, and the round keys that
AES_KEYSCHED loads. -/

namespace Sys2Proof.Machine

/-! ## The expanded key -/

/-- The word that `extendKey` puts before the words `w`, newest first (spec/41_cipher.md R149). -/
def nextWord (nk : Nat) (w : List Bytes) : Bytes :=
  xorBytes (w.getD (nk - 1) []) (scheduleCore nk w.length (w.getD 0 []))

/-- The last word that is added comes first. -/
theorem extendKey_succ (nk count : Nat) (w : List Bytes) : extendKey nk (count + 1) w =
    nextWord nk (extendKey nk count w) :: extendKey nk count w := by
  induction count generalizing w with
  | zero => rfl
  | succ count ih => rw [extendKey, ih]; rfl

/-- An entry of a list with its newest entry first, counted from the oldest. -/
theorem getD_eq_getD_reverse {w : List Bytes} {i : Nat} (hi : i < w.length) :
    w.getD i [] = w.reverse.getD (w.length - 1 - i) [] := by
  simp only [List.getD_eq_getElem?_getD]
  rw [List.getElem?_reverse (by omega)]
  congr 2
  omega

/-- The new word, from the words before it in their order. -/
theorem nextWord_eq {nk : Nat} {w : List Bytes} (hnk : 0 < nk) (hl : nk ≤ w.length) :
    nextWord nk w = xorBytes (w.reverse.getD (w.length - nk) [])
      (scheduleCore nk w.length (w.reverse.getD (w.length - 1) [])) := by
  rw [nextWord, getD_eq_getD_reverse (by omega), getD_eq_getD_reverse (show 0 < w.length by omega),
    show w.length - 1 - (nk - 1) = w.length - nk by omega, Nat.sub_zero]

/-- A further word leaves the words before it. -/
theorem extendKey_succ_reverse_getD_lt {nk count i : Nat} {w : List Bytes}
    (hi : i < w.length + count) : (extendKey nk (count + 1) w).reverse.getD i [] =
      (extendKey nk count w).reverse.getD i [] := by
  rw [extendKey_succ, List.reverse_cons,
    List.getD_append _ _ _ _ (by rw [List.length_reverse, length_extendKey]; exact hi)]

/-- The words there were at first stay. -/
theorem extendKey_reverse_getD_lt {nk count i : Nat} {w : List Bytes} (hi : i < w.length) :
    (extendKey nk count w).reverse.getD i [] = w.reverse.getD i [] := by
  induction count with
  | zero => rfl
  | succ count ih => rw [extendKey_succ_reverse_getD_lt (by omega), ih]

/-- Every word that is added follows the recurrence of spec/41_cipher.md R149. -/
theorem extendKey_reverse_getD {nk count i : Nat} {w : List Bytes} (hnk : 0 < nk)
    (hl : nk ≤ w.length) (hi : w.length ≤ i) (hlt : i < w.length + count) :
    (extendKey nk count w).reverse.getD i [] =
      xorBytes ((extendKey nk count w).reverse.getD (i - nk) [])
        (scheduleCore nk i ((extendKey nk count w).reverse.getD (i - 1) [])) := by
  induction count with
  | zero => omega
  | succ count ih =>
    have hlen := length_extendKey nk count w
    rw [extendKey_succ_reverse_getD_lt (i := i - nk) (by omega),
      extendKey_succ_reverse_getD_lt (i := i - 1) (by omega)]
    rcases (show i < w.length + count ∨ i = w.length + count by omega) with h | rfl
    · rw [extendKey_succ_reverse_getD_lt h, ih h]
    · rw [extendKey_succ, List.reverse_cons, ← hlen,
        List.getD_append_right _ _ _ _ (List.length_reverse.le), List.length_reverse,
        Nat.sub_self, List.getD_cons_zero, nextWord_eq hnk (by omega)]

/-- The first words of the expanded key are the key's. -/
theorem expandKey_getD_lt {key : Bytes} {i : Nat} (hi : i < key.length / 4) :
    (expandKey key).getD i [] = slice key (4 * i) (4 * i + 4) := by
  rw [expandKey, extendKey_reverse_getD_lt (by simpa using hi), List.reverse_reverse,
    List.getD_eq_getElem _ _ (by simpa using hi)]
  simp

/-- The words after the key's follow the recurrence (spec/41_cipher.md R149). -/
theorem expandKey_getD {key : Bytes} {i : Nat} (hk : 0 < key.length / 4) (hi : key.length / 4 ≤ i)
    (hlt : i < 4 * (key.length / 4 + 7)) : (expandKey key).getD i [] =
      xorBytes ((expandKey key).getD (i - key.length / 4) [])
        (scheduleCore (key.length / 4) i ((expandKey key).getD (i - 1) [])) :=
  extendKey_reverse_getD hk (by simp) (by simpa using hi) (by simp; omega)

/-! ## The round keys -/

theorem length_mksched_ek (key : Bytes) : (mksched key).ek.length = (mksched key).nr + 1 := by
  simp [mksched]

theorem length_mksched_dk (key : Bytes) : (mksched key).dk.length = (mksched key).nr + 1 := by
  simp [mksched]

/-- `EK[r]` is four words of the expanded key (spec/41_cipher.md R150). -/
theorem mksched_ekAt {key : Bytes} {r : Nat} (hr : r ≤ (mksched key).nr) : (mksched key).ekAt r =
    (expandKey key).getD (4 * r) [] ++ (expandKey key).getD (4 * r + 1) [] ++
      (expandKey key).getD (4 * r + 2) [] ++ (expandKey key).getD (4 * r + 3) [] := by
  rw [RoundKeys.ekAt, List.getD_eq_getElem _ _ (by rw [length_mksched_ek]; omega)]
  simp only [mksched, List.getElem_map, List.getElem_range]

/-- `DK[r]` is `EK[r]`, through InvMixColumns but for the two ends (spec/41_cipher.md R150). -/
theorem mksched_dkAt {key : Bytes} {r : Nat} (hr : r ≤ (mksched key).nr) : (mksched key).dkAt r =
    if r = 0 ∨ r = (mksched key).nr then (mksched key).ekAt r
    else invMixColumns ((mksched key).ekAt r) := by
  rw [RoundKeys.dkAt, List.getD_eq_getElem _ _ (by rw [length_mksched_dk]; omega)]
  simp only [mksched, List.getElem_map, List.getElem_range, RoundKeys.ekAt]
  rfl

theorem mksched_dkAt_zero (key : Bytes) : (mksched key).dkAt 0 = (mksched key).ekAt 0 := by
  rw [mksched_dkAt (Nat.zero_le _), if_pos (.inl rfl)]

theorem mksched_dkAt_nr (key : Bytes) :
    (mksched key).dkAt (mksched key).nr = (mksched key).ekAt (mksched key).nr := by
  rw [mksched_dkAt le_rfl, if_pos (.inr rfl)]

theorem mksched_dkAt_inner {key : Bytes} {r : Nat} (h0 : 0 < r) (hr : r < (mksched key).nr) :
    (mksched key).dkAt r = invMixColumns ((mksched key).ekAt r) := by
  rw [mksched_dkAt hr.le, if_neg (by omega)]

/-! ## AES_KEYSCHED -/

theorem execAesKeysched_of_holds {s : State} {key : Bytes} (hk : keyLength s.arg1)
    (hin : s.arg0 + s.arg1 ≤ 4096) (hl : key.length = s.arg1) (hd : s.buf.Holds s.arg0 key) :
    execAesKeysched s =
      .next (State.completed { s with sched := { valid := true, keys := mksched key } } 0) := by
  have hlen : (s.arg1 == 16 || s.arg1 == 24 || s.arg1 == 32) = true := by
    rcases hk with h | h | h <;> simp [h]
  rw [execAesKeysched, hlen, (inbuf_iff ..).mpr hin, State.withBytes_of_holds _ hd hl]
  rfl

theorem execAesKeysched_of_badLength {s : State} (hk : ¬keyLength s.arg1) :
    execAesKeysched s = .next (s.errored .badArg) := by
  obtain ⟨h16, h24, h32⟩ : s.arg1 ≠ 16 ∧ s.arg1 ≠ 24 ∧ s.arg1 ≠ 32 := by
    simpa only [keyLength, not_or] using hk
  simp [execAesKeysched, h16, h24, h32]

end Sys2Proof.Machine

open Sys2Proof Sys2Proof.Machine

/-- Settles O40: the model's words are built newest first; read from the oldest they follow R149. -/
theorem keyExpansionRecurrence : Obligations.KeyExpansionRecurrence := by
  refine ⟨by decide, fun key nk hnk hl => ?_⟩
  obtain rfl : nk = key.length / 4 := by omega
  exact ⟨length_expandKey, fun i hi => expandKey_getD_lt hi,
    fun i hi hlt => expandKey_getD (by omega) hi hlt⟩

/-- Settles O41: the schedule loaded is `mksched` of the key. -/
theorem aesKeyschedLoadsTheSchedule : Obligations.AesKeyschedLoadsTheSchedule := by
  refine fun s => ⟨fun key hk hin hl hd => ?_, fun h16 h24 h32 => ?_⟩
  · exact ⟨mksched key, execAesKeysched_of_holds hk hin hl hd, by rw [mksched_nr, hl],
      length_mksched_ek key, length_mksched_dk key, fun r hr => mksched_ekAt hr,
      mksched_dkAt_zero key, mksched_dkAt_nr key, fun r h0 hr => mksched_dkAt_inner h0 hr⟩
  · exact execAesKeysched_of_badLength (by simp [keyLength, h16, h24, h32])
end

section
/-! SUPPORT. The chained modes block by block, and the block and chained commands on operands that
BUF holds. -/

namespace Sys2Proof.Machine

/-! ## Chunks and blocks -/

/-- The first chunk of a string, zero-padded (spec/41_cipher.md R162). -/
theorem chunkAt_zero (p : Bytes) : chunkAt p 0 = padChunk (p.take 16) := by
  simp [chunkAt, slice, padChunk]

/-- The chunks after the first are those of the rest. -/
theorem chunkAt_succ (p : Bytes) (j : Nat) : chunkAt p (j + 1) = chunkAt (p.drop 16) j := by
  have hslice : slice p (16 * (j + 1)) (16 * (j + 1) + 16) =
      slice (p.drop 16) (16 * j) (16 * j + 16) := by
    rw [slice, slice, List.drop_drop, Nat.mul_succ, Nat.add_comm 16]
    congr 1
    omega
  rw [chunkAt, chunkAt, hslice]

/-- The blocks after the first are those of the rest, with the first block as the feedback. -/
theorem cipherBlock_succ (k : RoundKeys) (p f : Bytes) (j : Nat) :
    cipherBlock k p f (j + 1) = cipherBlock k (p.drop 16) (cipherBlock k p f 0) j := by
  induction j with
  | zero => simp only [cipherBlock, chunkAt_succ]
  | succ j ih => rw [cipherBlock.eq_2, ih, chunkAt_succ, cipherBlock.eq_2 k (p.drop 16)]

/-- The blocks after the first are those of the rest, with the first chunk as the feedback. -/
theorem plainBlock_succ (k : RoundKeys) (c f : Bytes) (j : Nat) :
    plainBlock k c f (j + 1) = plainBlock k (c.drop 16) (chunkAt c 0) j := by
  cases j with
  | zero => rw [plainBlock, plainBlock, chunkAt_succ]
  | succ j => rw [plainBlock, plainBlock, chunkAt_succ c (j + 1), chunkAt_succ c j]

/-- Bytes of one block more: the first block, cut, and the bytes of the blocks after it. -/
theorem take_flatMap_range_succ {block : Nat → Bytes} (h : (block 0).length = 16) (n len : Nat) :
    ((List.range (n + 1)).flatMap block).take len =
      (block 0).take (min 16 len) ++
        ((List.range n).flatMap fun j => block (j + 1)).take (len - 16) := by
  rw [List.range_succ_eq_map, List.flatMap_cons, List.flatMap_map, List.take_append, h]
  congr 1
  rcases Nat.le_total 16 len with h16 | h16
  · rw [Nat.min_eq_left h16, List.take_of_length_le (by omega), List.take_of_length_le (by omega)]
  · rw [Nat.min_eq_right h16]

theorem chainEncChunks_eq {k : RoundKeys} (hk : k.Sound) (n : Nat) (p f : Bytes) :
    chainEncChunks k n p f = ((List.range n).flatMap (cipherBlock k p f)).take p.length := by
  induction n generalizing p f with
  | zero => simp [chainEncChunks]
  | succ n ih =>
    rw [take_flatMap_range_succ (length_encblk hk _), chainEncChunks, ih]
    simp only [cipherBlock_succ, cipherBlock.eq_1, chunkAt_zero, List.length_take,
      List.length_drop]

theorem chainDecChunks_eq {k : RoundKeys} (hk : k.Sound) (n : Nat) (c : Bytes) {f : Bytes}
    (hf : f.length = 16) :
    chainDecChunks k n c f = ((List.range n).flatMap (plainBlock k c f)).take c.length := by
  induction n generalizing c f with
  | zero => simp [chainDecChunks]
  | succ n ih =>
    have hx : (padChunk (c.take 16)).length = 16 := by simp [padChunk]
    have hy : (plainBlock k c f 0).length = 16 := by simp [plainBlock, length_decblk hk, hf]
    rw [take_flatMap_range_succ hy, chainDecChunks, ih _ hx]
    simp only [plainBlock_succ, plainBlock.eq_1, chunkAt_zero, List.length_take, List.length_drop]

/-- The chained encryption is its ciphertext blocks, cut to the length of the operand. -/
theorem chainenc_eq_takeBlocks {k : RoundKeys} (hk : k.Sound) (p f : Bytes) :
    chainenc k p f = takeBlocks p.length (cipherBlock k p f) := chainEncChunks_eq hk ..

/-- The chained decryption is its plaintext blocks, cut to the length of the operand. -/
theorem chaindec_eq_takeBlocks {k : RoundKeys} (hk : k.Sound) (c : Bytes) {f : Bytes}
    (hf : f.length = 16) : chaindec k c f = takeBlocks c.length (plainBlock k c f) :=
  chainDecChunks_eq hk _ c hf

/-- A sound schedule that is loaded can be used by the block functions. -/
theorem Sched.Sound.keys_sound {c : Sched} (hc : c.Sound) (hv : c.valid = true) : c.keys.Sound := by
  rw [Sched.Sound, if_pos hv] at hc
  obtain ⟨key, hk, he⟩ := hc
  exact he ▸ mksched_sound hk

/-! ## The commands on operands that BUF holds -/

/-- The optional operand that the statements speak of: 16 bytes at ARG4 in BUF, if there is one
(spec/41_cipher.md R160, R164). -/
def State.HoldsOptional (s : State) (o : Option Bytes) : Prop :=
  ∀ x ∈ o, x.length = 16 ∧ s.arg4 + 16 ≤ 4096 ∧ s.buf.Holds s.arg4 x

theorem State.HoldsOptional.inbuf {s : State} {o : Option Bytes} (h : s.HoldsOptional o)
    (ho : o.isSome = true) : inbuf s.arg4 16 = true := by
  obtain ⟨x, rfl⟩ := Option.isSome_iff_exists.mp ho
  exact (inbuf_iff ..).mpr (h x rfl).2.1

theorem State.HoldsOptional.withOptional_eq {s : State} {o : Option Bytes} (h : s.HoldsOptional o)
    (k : Option Bytes → Result) : s.withOptional o.isSome k = k o := by
  cases o with
  | none => rfl
  | some x =>
    obtain ⟨hl, -, hd⟩ := h x rfl
    exact State.withOptional_some k hd hl

theorem blockCommand_of_holds {s : State} {b : Bytes} {seed : Option Bytes}
    {out : Option Bytes → Bytes → Bytes} (hv : s.sched.valid = true) (hin : s.arg0 + 16 ≤ 4096)
    (hout : s.arg2 + 16 ≤ 4096) (hl : b.length = 16) (hb : s.buf.Holds s.arg0 b)
    (hseed : s.HoldsOptional seed) : blockCommand seed.isSome out s =
      .next ((s.storeBytes s.arg2 (out seed b)).completed 16) := by
  have hcheck : blockCheck s seed.isSome = none := (blockCheck_eq_none ..).mpr
    ⟨hv, (inbuf_iff ..).mpr hin, (inbuf_iff ..).mpr hout, hseed.inbuf⟩
  simp only [blockCommand, hcheck, State.withBytes_of_holds _ hb hl, hseed.withOptional_eq]

theorem chainCommand_of_holds {s : State} {p : Bytes} {iv : Option Bytes}
    {out : Bytes → Bytes → Bytes} (hv : s.sched.valid = true) (hin : s.arg0 + s.arg1 ≤ 4096)
    (hout : s.arg2 + s.arg1 ≤ 4096) (hl : p.length = s.arg1) (hp : s.buf.Holds s.arg0 p)
    (hiv : s.HoldsOptional iv) : chainCommand iv.isNone out s =
      .next ((s.storeBytes s.arg2 (out p (initialFeedback iv))).completed s.arg1) := by
  have hsome : (!iv.isNone) = iv.isSome := by cases iv <;> rfl
  have hcheck : chainCheck s iv.isNone = none := (chainCheck_eq_none ..).mpr
    ⟨hv, (inbuf_iff ..).mpr hin, (inbuf_iff ..).mpr hout, fun h => hiv.inbuf (by simp [← hsome, h])⟩
  simp only [chainCommand, hcheck, hsome, hiv.withOptional_eq, State.withBytes_of_holds _ hp hl]

/-- A seed is the second operand of the XOR. -/
theorem seedInto_eq_elim (seed : Option Bytes) (b : Bytes) :
    seedInto seed b = seed.elim b (xorBytes b) := by
  cases seed <;> rfl

theorem initialFeedback_eq_getD (iv : Option Bytes) : initialFeedback iv = iv.getD (zeros 16) := by
  cases iv <;> rfl

end Sys2Proof.Machine

open Sys2Proof Sys2Proof.Machine

/-- Settles O42: both commands share `blockCommand`. -/
theorem singleBlockCommands : Obligations.SingleBlockCommands := by
  intro s b seed hv hin hout hl hb hseed
  refine ⟨⟨_, (execAesEncBlock_eq ..).trans (blockCommand_of_holds hv hin hout hl hb hseed),
    ?_, rfl⟩, ⟨_, (execAesDecBlock_eq ..).trans (blockCommand_of_holds hv hin hout hl hb hseed),
    ?_, rfl⟩⟩
  · rw [← seedInto_eq_elim]
    exact Memory.stored_write ..
  · rw [← seedInto_eq_elim]
    exact Memory.stored_write ..

/-- Settles O43: both commands share `chainCommand`. -/
theorem chainedCommands : Obligations.ChainedCommands := by
  intro s p iv hv hs hin hout hl hp hiv
  have hk := hs.keys_sound hv
  have hf : (initialFeedback iv).length = 16 := length_initialFeedback fun x hx => (hiv x hx).1
  have hresult : BitVec.ofNat 32 s.arg1 = s.larg.arg1 := by simp [State.arg1]
  refine ⟨⟨_, (execAesChainEnc_eq ..).trans (chainCommand_of_holds hv hin hout hl hp hiv),
    ?_, ?_⟩, ⟨_, (execAesChainDec_eq ..).trans (chainCommand_of_holds hv hin hout hl hp hiv),
    ?_, ?_⟩⟩
  · rw [chainenc_eq_takeBlocks hk, hl, initialFeedback_eq_getD]
    exact Memory.stored_write ..
  · rw [← hresult]; rfl
  · rw [chaindec_eq_takeBlocks hk p hf, hl, initialFeedback_eq_getD]
    exact Memory.stored_write ..
  · rw [← hresult]; rfl
end

section
/-! SUPPORT. Decryption undoes encryption: each transform of a block has its inverse, InvMixColumns
is linear, and so each round of the equivalent inverse cipher (spec/41_cipher.md R152) undoes one
round. -/

namespace Sys2Proof.Machine

/-! ## XOR of byte strings -/

theorem xorBytes_xorBytes_cancel {s t : Bytes} (h : s.length = t.length) :
    xorBytes (xorBytes s t) t = s := by
  refine bytes_ext (by simp [h]) fun j hj => ?_
  simp only [length_xorBytes, h, Nat.min_self] at hj
  rw [byteAt_xorBytes (by simp; omega) hj, byteAt_xorBytes (by omega) hj, BitVec.xor_assoc,
    BitVec.xor_self, BitVec.xor_zero]

/-! ## The transforms byte by byte -/

/-- Byte r + 4c of a block (spec/41_cipher.md R140). -/
theorem byteAt_blockOf (f : Nat → Nat → Byte) {j : Nat} (hj : j < 16) :
    byteAt (blockOf f) j = f (j % 4) (j / 4) := by
  simp [byteAt, blockOf, List.getD_eq_getElem?_getD, hj]

theorem byteAt_subBytes {s : Bytes} {j : Nat} (hj : j < s.length) :
    byteAt (subBytes s) j = sbox (byteAt s j) := by
  simp [byteAt, subBytes, List.getD_eq_getElem?_getD, hj]

theorem byteAt_invSubBytes {s : Bytes} {j : Nat} (hj : j < s.length) :
    byteAt (invSubBytes s) j = invSbox (byteAt s j) := by
  simp [byteAt, invSubBytes, List.getD_eq_getElem?_getD, hj]

/-- InvShiftRows and InvSubBytes undo SubBytes and ShiftRows (spec/41_cipher.md R143 to R145). -/
theorem invShiftRows_invSubBytes {s : Bytes} (hs : s.length = 16) :
    invShiftRows (invSubBytes (shiftRows (subBytes s))) = s := by
  refine bytes_ext (by simp [hs]) fun j hj => ?_
  rw [length_invShiftRows] at hj
  rw [invShiftRows, byteAt_blockOf _ hj, byteAt_invSubBytes (by simp; omega), shiftRows,
    byteAt_blockOf _ (by omega), byteAt_subBytes (by omega), invSbox_sbox]
  congr 1
  omega

/-- The four bytes of a column from row `j mod 4` on, for byte `j` of a block. -/
def columnByte (s : Bytes) (j k : Nat) : Byte := byteAt s ((j % 4 + k) % 4 + 4 * (j / 4))

theorem columnByte_zero (s : Bytes) (j : Nat) : columnByte s j 0 = byteAt s j := by
  rw [columnByte]; congr 1; omega

/-- A column has four rows. -/
theorem columnByte_add_four (s : Bytes) (j k : Nat) :
    columnByte s j (k + 4) = columnByte s j k := by
  rw [columnByte, columnByte, ← Nat.add_assoc, Nat.add_mod_right]

theorem byteAt_mixColumns (s : Bytes) {j : Nat} (hj : j < 16) : byteAt (mixColumns s) j =
    gmul 0x02 (columnByte s j 0) ^^^ gmul 0x03 (columnByte s j 1) ^^^ columnByte s j 2 ^^^
      columnByte s j 3 := byteAt_blockOf _ hj

theorem byteAt_invMixColumns (s : Bytes) {j : Nat} (hj : j < 16) : byteAt (invMixColumns s) j =
    gmul 0x0E (columnByte s j 0) ^^^ gmul 0x0B (columnByte s j 1) ^^^
      gmul 0x0D (columnByte s j 2) ^^^ gmul 0x09 (columnByte s j 3) := byteAt_blockOf _ hj

/-- A column of the mixed block, from the same column of the block. -/
theorem columnByte_mixColumns (s : Bytes) {j : Nat} (hj : j < 16) (k : Nat) :
    columnByte (mixColumns s) j k =
      gmul 0x02 (columnByte s j k) ^^^ gmul 0x03 (columnByte s j (k + 1)) ^^^
        columnByte s j (k + 2) ^^^ columnByte s j (k + 3) := by
  have hshift (m : Nat) :
      columnByte s ((j % 4 + k) % 4 + 4 * (j / 4)) m = columnByte s j (k + m) := by
    rw [columnByte, columnByte]; congr 1; omega
  rw [columnByte, byteAt_mixColumns s (by omega)]
  simp only [hshift, Nat.add_zero]

theorem columnByte_xorBytes {s t : Bytes} (hs : s.length = 16) (ht : t.length = 16) {j : Nat}
    (hj : j < 16) (k : Nat) :
    columnByte (xorBytes s t) j k = columnByte s j k ^^^ columnByte t j k :=
  byteAt_xorBytes (by omega) (by omega)

/-- The matrices of MixColumns and InvMixColumns are inverse: the first row of their product
(spec/41_cipher.md R146). -/
theorem invMix_mix_column (a b c d : Byte) :
    gmul 0x0E (gmul 0x02 a ^^^ gmul 0x03 b ^^^ c ^^^ d) ^^^
      gmul 0x0B (gmul 0x02 b ^^^ gmul 0x03 c ^^^ d ^^^ a) ^^^
      gmul 0x0D (gmul 0x02 c ^^^ gmul 0x03 d ^^^ a ^^^ b) ^^^
      gmul 0x09 (gmul 0x02 d ^^^ gmul 0x03 a ^^^ b ^^^ c) = a := by
  simp only [gmul_xor_right, gmul_gmul]
  calc
    _ = gmul (gmul 0x0E 0x02 ^^^ 0x0B ^^^ 0x0D ^^^ gmul 0x09 0x03) a ^^^
        gmul (gmul 0x0E 0x03 ^^^ gmul 0x0B 0x02 ^^^ 0x0D ^^^ 0x09) b ^^^
        gmul (0x0E ^^^ gmul 0x0B 0x03 ^^^ gmul 0x0D 0x02 ^^^ 0x09) c ^^^
        gmul (0x0E ^^^ 0x0B ^^^ gmul 0x0D 0x03 ^^^ gmul 0x09 0x02) d := by
      simp only [gmul_xor_left]
      ac_rfl
    _ = gmul 1 a ^^^ gmul 0#8 b ^^^ gmul 0#8 c ^^^ gmul 0#8 d := rfl
    _ = a := by simp only [gmul_one_left, gmul_zero_left, BitVec.xor_zero]

theorem invMixColumns_mixColumns {s : Bytes} (hs : s.length = 16) :
    invMixColumns (mixColumns s) = s := by
  refine bytes_ext (by simp [hs]) fun j hj => ?_
  rw [length_invMixColumns] at hj
  rw [byteAt_invMixColumns _ hj]
  simp only [columnByte_mixColumns s hj, Nat.reduceAdd, columnByte_add_four s j 0,
    columnByte_add_four s j 1, columnByte_add_four s j 2]
  rw [← columnByte_zero s j]
  exact invMix_mix_column ..

theorem invMixColumns_xorBytes {s t : Bytes} (hs : s.length = 16) (ht : t.length = 16) :
    invMixColumns (xorBytes s t) = xorBytes (invMixColumns s) (invMixColumns t) := by
  refine bytes_ext (by simp) fun j hj => ?_
  rw [length_invMixColumns] at hj
  rw [byteAt_xorBytes (by simpa using hj) (by simpa using hj)]
  simp only [byteAt_invMixColumns _ hj, columnByte_xorBytes hs ht hj, gmul_xor_right]
  ac_rfl

/-! ## The rounds -/

/-- A schedule whose decryption keys are those of the equivalent inverse cipher
(spec/41_cipher.md R150). -/
structure RoundKeys.Inverse (k : RoundKeys) : Prop where
  /-- The keys are complete. -/
  sound : k.Sound
  /-- The first key is the same. -/
  dkAt_zero : k.dkAt 0 = k.ekAt 0
  /-- The last key is the same. -/
  dkAt_nr : k.dkAt k.nr = k.ekAt k.nr
  /-- The keys between go through InvMixColumns. -/
  dkAt_inner : ∀ r, 0 < r → r < k.nr → k.dkAt r = invMixColumns (k.ekAt r)

theorem mksched_inverse {key : Bytes} (hk : keyLength key.length) : (mksched key).Inverse where
  sound := mksched_sound hk
  dkAt_zero := mksched_dkAt_zero key
  dkAt_nr := mksched_dkAt_nr key
  dkAt_inner _ := mksched_dkAt_inner

variable {k : RoundKeys}

theorem RoundKeys.Inverse.length_encRound (hk : k.Inverse) (s : Bytes) {r : Nat} (hr : r ≤ k.nr) :
    (encRound k s r).length = 16 := by
  simp [encRound, hk.sound.ek_length r hr]

/-- A round of decryption takes the substituted and shifted block after a round of encryption to the
one before it. -/
theorem RoundKeys.Inverse.decRound_encRound (hk : k.Inverse) {s : Bytes}
    {r : Nat} (h0 : 0 < r) (hr : r < k.nr) :
    decRound k (shiftRows (subBytes (encRound k s r))) r = shiftRows (subBytes s) := by
  rw [decRound, invShiftRows_invSubBytes (hk.length_encRound s hr.le), encRound,
    invMixColumns_xorBytes (by simp) (hk.sound.ek_length r hr.le),
    invMixColumns_mixColumns (by simp), hk.dkAt_inner r h0 hr]
  exact xorBytes_xorBytes_cancel (by simp)

/-- The rounds of decryption, made in the opposite order, undo those of encryption. -/
theorem RoundKeys.Inverse.foldl_decRound (hk : k.Inverse) (rounds : List Nat)
    (hr : ∀ r ∈ rounds, 0 < r ∧ r < k.nr) (s : Bytes) :
    rounds.reverse.foldl (decRound k) (shiftRows (subBytes (rounds.foldl (encRound k) s))) =
      shiftRows (subBytes s) := by
  induction rounds generalizing s with
  | nil => rfl
  | cons r rounds ih =>
    obtain ⟨h0, hlt⟩ := hr r (.head _)
    rw [List.foldl_cons, List.reverse_cons, List.foldl_append,
      ih (fun q hq => hr q (.tail _ hq)), List.foldl_cons, List.foldl_nil,
      hk.decRound_encRound h0 hlt]

/-- Decryption undoes encryption (spec/41_cipher.md R152). -/
theorem RoundKeys.Inverse.decblk_encblk (hk : k.Inverse) {b : Bytes} (hb : b.length = 16) :
    decblk k (encblk k b) = b := by
  have hs : (xorBytes b (k.ekAt 0)).length = 16 := by
    simp [hb, hk.sound.ek_length 0 (Nat.zero_le _)]
  have hrounds : ∀ r ∈ (List.range (k.nr - 1)).map (· + 1), 0 < r ∧ r < k.nr := by
    simp only [List.mem_map, List.mem_range]
    rintro r ⟨i, hi, rfl⟩
    omega
  have hlast (s : Bytes) : xorBytes (xorBytes (shiftRows s) (k.ekAt k.nr)) (k.ekAt k.nr) =
      shiftRows s := xorBytes_xorBytes_cancel (by simp [hk.sound.ek_length k.nr le_rfl])
  simp only [decblk, encblk, hk.dkAt_nr, hlast]
  rw [hk.foldl_decRound _ hrounds, invShiftRows_invSubBytes hs, hk.dkAt_zero]
  exact xorBytes_xorBytes_cancel (by rw [hb, hk.sound.ek_length 0 (Nat.zero_le _)])

/-- A seed is XORed away by XORing it again. -/
theorem seedInto_seedInto {seed : Option Bytes} {b : Bytes} (h : ∀ x ∈ seed, x.length = b.length) :
    seedInto seed (seedInto seed b) = b := by
  cases seed with
  | none => rfl
  | some x => exact xorBytes_xorBytes_cancel (h x rfl).symm

/-! ## The chained modes -/

/-- A whole chunk is not padded. -/
theorem padChunk_of_length {c : Bytes} (h : c.length = 16) : padChunk c = c := by
  simp [padChunk, h, zeros]

/-- Chained decryption undoes chained encryption on the whole chunks, chunk by chunk
(spec/41_cipher.md R172). -/
theorem RoundKeys.Inverse.chainDecChunks_chainEncChunks (hk : k.Inverse) {n q : Nat} {p f : Bytes}
    (hf : f.length = 16) (hq : q ≤ n) (hp : 16 * q ≤ p.length) :
    (chainDecChunks k n (chainEncChunks k n p f) f).take (16 * q) = p.take (16 * q) := by
  induction q generalizing n p f with
  | zero => simp
  | succ q ih =>
    obtain ⟨n, rfl⟩ : ∃ m, n = m + 1 := ⟨n - 1, by omega⟩
    have hc : (p.take 16).length = 16 := by simp; omega
    have hx : (xorBytes (p.take 16) f).length = 16 := by simp [hf]; omega
    have hy : (encblk k (xorBytes (p.take 16) f)).length = 16 := length_encblk hk.sound _
    have hfirst : xorBytes (xorBytes (p.take 16) f) f = p.take 16 :=
      xorBytes_xorBytes_cancel (hc.trans hf.symm)
    rw [chainEncChunks, chainDecChunks]
    simp only [padChunk_of_length hc, hc]
    rw [List.take_of_length_le hy.le, List.take_left' hy, List.drop_left' hy,
      padChunk_of_length hy, hy, hk.decblk_encblk hx, hfirst, List.take_of_length_le hc.le,
      show 16 * (q + 1) = 16 + 16 * q by omega, List.take_add, List.take_left' hc,
      List.drop_left' hc, ih hy (by omega) (by simp; omega), List.take_add]

end Sys2Proof.Machine

open Sys2Proof Sys2Proof.Machine

/-- Settles O44: the schedule of a key is that of the equivalent inverse cipher. -/
theorem blockDecryptionUndoesEncryption : Obligations.BlockDecryptionUndoesEncryption := by
  intro key b seed hk hb hseed
  have hlen : ∀ x ∈ seed, x.length = b.length := fun x hx => (hseed x hx).trans hb.symm
  have hin : (seedInto seed b).length = 16 := (length_seedInto seed b hlen).trans hb
  rw [(mksched_inverse hk).decblk_encblk hin, seedInto_seedInto hlen]

/-- Settles O45: the whole chunks, by O44's block decryption. -/
theorem chainDecryptionUndoesEncryption : Obligations.ChainDecryptionUndoesEncryption := by
  intro key p f0 hk hf
  have hi := mksched_inverse hk
  have hwhole : p.length - p.length % 16 = 16 * (p.length / 16) := by omega
  rw [chaindec, length_chainenc hi.sound p hf, chainenc, hwhole]
  exact hi.chainDecChunks_chainEncChunks hf (by omega) (by omega)
end

section
/-! SUPPORT. The MAC: doubling bit by bit, and AES_MAC on an operand that BUF holds. -/

namespace Sys2Proof.Machine

/-! ## The bits of a byte string -/

/-- Bit `i` of byte `j` of a big-endian encoding is a bit of the integer. -/
theorem getLsbD_byteAt_beBytes (v : Nat) {n j i : Nat} (hj : j < n) (hi : i < 8) :
    (byteAt (beBytes v n) j).getLsbD i = v.testBit (8 * (n - 1 - j) + i) := by
  induction n generalizing j with
  | zero => omega
  | succ n ih =>
    cases j with
    | zero =>
      have hpow : (256 : Nat) ^ n = 2 ^ (8 * n) := by rw [pow_mul]; norm_num
      rw [beBytes, byteAt, List.getD_cons_zero, hpow, BitVec.getLsbD_ofNat, decide_eq_true hi,
        Bool.true_and, Nat.testBit_div_two_pow, Nat.add_sub_cancel, Nat.sub_zero, Nat.add_comm]
    | succ j =>
      rw [show n + 1 - 1 - (j + 1) = n - 1 - j by omega]
      exact ih (by omega)

theorem testBit_beInt {s : Bytes} {j i : Nat} (hj : j < s.length) (hi : i < 8) :
    (beInt s).testBit (8 * (s.length - 1 - j) + i) = (byteAt s j).getLsbD i := by
  rw [← getLsbD_byteAt_beBytes _ hj hi, beBytes_beInt]

/-! ## Doubling -/

/-- The constant of the doubling (spec/41_cipher.md R170). -/
def dblConstant (x : Bytes) : Byte := if (byteAt x 0).getLsbD 7 then 0x87 else 0

theorem dbl_eq_beBytes (x : Bytes) :
    dbl x = beBytes ((beInt x * 2 % 2 ^ 128) ^^^ (dblConstant x).toNat) 16 := by
  unfold dbl dblConstant
  split <;> rfl

/-- Bit `i` of byte `j` of a doubled string: the bit below it and, in byte 15, that of the
constant. -/
theorem getLsbD_byteAt_dbl (x : Bytes) {j i : Nat} (hj : j < 16) (hi : i < 8) :
    (byteAt (dbl x) j).getLsbD i =
      ((1 ≤ 8 * (15 - j) + i && (beInt x).testBit (8 * (15 - j) + i - 1)) ^^
        (dblConstant x).getLsbD (8 * (15 - j) + i)) := by
  rw [dbl_eq_beBytes, getLsbD_byteAt_beBytes _ hj hi, Nat.testBit_xor, Nat.testBit_mod_two_pow,
    show beInt x * 2 = beInt x <<< 1 by rw [Nat.shiftLeft_eq], Nat.testBit_shiftLeft,
    BitVec.testBit_toNat, decide_eq_true (show 8 * (16 - 1 - j) + i < 128 by omega), Bool.true_and]

/-- A byte before the last is shifted, with the top bit of the byte after it. -/
theorem byteAt_dbl {x : Bytes} (hx : x.length = 16) {j : Nat} (hj : j < 15) :
    byteAt (dbl x) j = byteAt x j <<< 1 ||| byteAt x (j + 1) >>> 7 := by
  refine BitVec.eq_of_getLsbD_eq fun i hi => ?_
  rw [getLsbD_byteAt_dbl x (by omega) hi, BitVec.getLsbD_of_ge (dblConstant x) _ (by omega),
    Bool.xor_false, BitVec.getLsbD_or, BitVec.getLsbD_shiftLeft, BitVec.getLsbD_ushiftRight]
  cases i with
  | zero =>
    have h := testBit_beInt (s := x) (j := j + 1) (i := 7) (by omega) (by decide)
    rw [hx, show 8 * (16 - 1 - (j + 1)) + 7 = 8 * (15 - j) + 0 - 1 by omega] at h
    rw [h, decide_eq_true (show 1 ≤ 8 * (15 - j) + 0 by omega)]
    simp
  | succ i =>
    have h := testBit_beInt (s := x) (j := j) (i := i) (by omega) (by omega)
    have hhigh : (byteAt x (j + 1)).getLsbD (7 + (i + 1)) = false :=
      BitVec.getLsbD_of_ge _ _ (by omega)
    rw [hx] at h
    rw [decide_eq_true (show 1 ≤ 8 * (15 - j) + (i + 1) by omega), ← Nat.add_assoc,
      Nat.add_sub_cancel, h, hhigh]
    simp [hi]

/-- The last byte is shifted, and the constant added. -/
theorem byteAt_dbl_last {x : Bytes} (hx : x.length = 16) :
    byteAt (dbl x) 15 = byteAt x 15 <<< 1 ^^^ dblConstant x := by
  refine BitVec.eq_of_getLsbD_eq fun i hi => ?_
  rw [getLsbD_byteAt_dbl x (by decide) hi, BitVec.getLsbD_xor, BitVec.getLsbD_shiftLeft]
  cases i with
  | zero => simp
  | succ i =>
    have h := testBit_beInt (s := x) (j := 15) (i := i) (by omega) (by omega)
    rw [hx, Nat.sub_self, Nat.mul_zero, Nat.zero_add] at h
    simp [h, hi]

/-! ## AES_MAC -/

theorem execAesMac_of_holds {s : State} {m : Bytes} (hv : s.sched.valid = true) (h16 : s.arg1 ≤ 16)
    (hin : s.arg0 + s.arg1 ≤ 4096) (hout : s.arg2 + 16 ≤ 4096) (hl : m.length = s.arg1)
    (hm : s.buf.Holds s.arg0 m) :
    execAesMac s = .next ((s.storeBytes s.arg2 (mac s.sched.keys m)).completed 16) := by
  rw [execAesMac, hv, if_neg (by decide), if_neg (Nat.not_lt.mpr h16), (inbuf_iff ..).mpr hin,
    (inbuf_iff ..).mpr hout, State.withBytes_of_holds _ hm hl]
  rfl

end Sys2Proof.Machine

open Sys2Proof Sys2Proof.Machine

/-- Settles O46: the doubling bit by bit, and `mac` is the statement's two cases. -/
theorem aesMacUsesTheSubkeys : Obligations.AesMacUsesTheSubkeys := by
  refine ⟨fun x hx => ⟨length_dbl x, fun j hj => byteAt_dbl hx hj, byteAt_dbl_last hx⟩, ?_⟩
  intro s m hv h16 hin hout hl hm
  exact ⟨_, execAesMac_of_holds hv h16 hin hout hl hm, Memory.stored_write .., rfl⟩
end

section
/-! SUPPORT. RSA: the two transforms on an operand that BUF holds, and the powers that a valid key pair
composes to the identity (spec/42_rsa.md R191 to R194). -/

namespace Sys2Proof.Machine

/-! ## The commands -/

/-- The integer 0 has zero bytes only. -/
theorem beBytes_zero_left (n : Nat) : beBytes 0 n = List.replicate n 0 := by
  induction n with
  | zero => rfl
  | succ n ih => rw [beBytes, ih, Nat.zero_div, List.replicate_succ]; rfl

/-- Both transforms are one command, each with its exponent of the loaded key. -/
theorem exec_rsa {s : State} {i : Instr} {ex : Nat}
    (h : i = .rsaPriv ∧ ex = s.km.d ∨ i = .rsaPub ∧ ex = s.km.e) : exec i s = rsaCommand ex s := by
  rcases h with ⟨rfl, rfl⟩ | ⟨rfl, rfl⟩ <;> rfl

/-- What a transform does once its checks pass: it stores the power, or that is too long. -/
theorem rsaCommand_of_holds {s : State} {x : Bytes} (ex : Nat) (hv : s.km.valid = true)
    (hn : 0 < s.km.n) (h1 : s.arg1 ≤ 128) (h3 : 1 ≤ s.arg3) (h3' : s.arg3 ≤ 128)
    (hin : s.arg0 + s.arg1 ≤ 4096) (hout : s.arg2 + s.arg3 ≤ 4096) (hl : x.length = s.arg1)
    (hx : s.buf.Holds s.arg0 x) :
    rsaCommand ex s =
      if rsaValue (beInt x) ex s.km.n < 256 ^ s.arg3
      then .next ((s.storeBytes s.arg2 (beBytes (rsaValue (beInt x) ex s.km.n) s.arg3)).completed
        s.arg3)
      else .next (s.errored .crypto) := by
  have hlen : (s.arg1 > Config.rsaBytes || s.arg3 == 0 || s.arg3 > Config.rsaBytes) = false := by
    simp [Config.rsaBytes, h1, h3', show s.arg3 ≠ 0 by omega]
  rw [rsaCommand, hv, hlen, (inbuf_iff ..).mpr hin, (inbuf_iff ..).mpr hout,
    State.withBytes_of_holds _ hx hl, rsa_eq _ _ _ _ hn]
  by_cases h : rsaValue (beInt x) ex s.km.n < 256 ^ s.arg3
  · rw [if_pos h, if_pos h]; rfl
  · rw [if_neg h, if_neg h]; rfl

/-- RESULT after a transform is the output length as the argument gave it. -/
theorem storeBytes_completed_arg3 (s : State) (a : Nat) (y : Bytes) :
    (s.storeBytes a y).completed s.arg3 =
      { s with buf := s.buf.write a y, result := s.larg.arg3, busy := false } := by
  simp [State.completed, State.storeBytes, State.arg3]

/-! ## The powers of a key pair -/

open ArithmeticFunction (carmichael carmichael_dvd pow_carmichael)

/-- Congruent exponents give congruent powers of what is coprime to the modulus. -/
theorem pow_modEq_pow_of_coprime {n x a b : Nat} (hx : x.Coprime n)
    (h : a ≡ b [MOD carmichael n]) : x ^ a ≡ x ^ b [MOD n] := by
  rw [← ZMod.natCast_eq_natCast_iff, Nat.cast_pow, Nat.cast_pow, ← ZMod.coe_unitOfCoprime x hx,
    ← Units.val_pow_eq_pow_val, ← Units.val_pow_eq_pow_val,
    pow_eq_pow_of_modEq h (pow_carmichael _)]

/-- For a square-free modulus the power is the identity on every integer: the part of the modulus that
divides `x` and the part that is coprime to it are coprime to each other. -/
theorem pow_modEq_self_of_squarefree {n m : Nat} (x : Nat) (hn : Squarefree n)
    (hm : m ≡ 1 [MOD carmichael n]) (h0 : m ≠ 0) : x ^ m ≡ x [MOD n] := by
  rcases eq_or_ne x 0 with rfl | hx
  · rw [zero_pow h0]
  have hsplit : n.gcd x * (n / n.gcd x) = n := Nat.mul_div_cancel' (Nat.gcd_dvd_left ..)
  have hcop : (n.gcd x).Coprime (n / n.gcd x) := Nat.coprime_of_squarefree_mul (by rwa [hsplit])
  have hdiv : x ^ m ≡ x [MOD n.gcd x] :=
    ((Nat.gcd_dvd_right n x).trans (dvd_pow_self x h0)).modEq_zero_nat.trans
      (Nat.gcd_dvd_right n x).modEq_zero_nat.symm
  have hrest : x ^ m ≡ x [MOD n / n.gcd x] := by
    have h := pow_modEq_pow_of_coprime (Nat.coprime_div_gcd_of_squarefree hn hx).symm
      (hm.of_dvd (carmichael_dvd (Nat.div_dvd_of_dvd (Nat.gcd_dvd_left n x))))
    rwa [pow_one] at h
  have h := (Nat.modEq_and_modEq_iff_modEq_mul hcop).mp ⟨hdiv, hrest⟩
  rwa [hsplit] at h

/-- Only the moduli 1 and 2 admit the product 0 of two exponents: -1 is 1 there. -/
theorem dvd_two_of_zero_modEq_one {n : Nat} (h : 0 ≡ 1 [MOD carmichael n]) : n ∣ 2 := by
  have hunit : (1 : (ZMod n)ˣ) = -1 := by
    simpa using pow_eq_pow_of_modEq h (pow_carmichael (-1 : (ZMod n)ˣ))
  have hone : (1 : ZMod n) = -1 := congrArg Units.val hunit
  rw [← ZMod.natCast_eq_zero_iff, Nat.cast_ofNat, ← one_add_one_eq_two]
  exact eq_neg_iff_add_eq_zero.mp hone

/-- A non-zero input of a transform keeps its value under the product of the exponents, the product 0
for N = 2 included. -/
theorem pow_mod_eq_self {n m x : Nat} (h2 : 2 ≤ n) (hn : Squarefree n)
    (hm : m ≡ 1 [MOD carmichael n]) (hx : x ≠ 0) (hlt : x < n) : x ^ m % n = x := by
  rcases eq_or_ne m 0 with rfl | h0
  · have hle : n ≤ 2 := Nat.le_of_dvd two_pos (dvd_two_of_zero_modEq_one hm)
    obtain rfl : x = 1 := by omega
    rw [one_pow, Nat.mod_eq_of_lt hlt]
  · exact Nat.mod_eq_of_modEq (pow_modEq_self_of_squarefree x hn hm h0) hlt

/-- A square-free modulus has no non-zero input whose power is 0. -/
theorem pow_mod_ne_zero {n x : Nat} (k : Nat) (h2 : 2 ≤ n) (hn : Squarefree n) (hx : x ≠ 0)
    (hlt : x < n) : x ^ k % n ≠ 0 := by
  rw [Ne, ← Nat.dvd_iff_mod_eq_zero]
  rcases eq_or_ne k 0 with rfl | hk
  · rw [pow_zero, Nat.dvd_one]; omega
  · rw [hn.dvd_pow_iff_dvd hk]
    exact Nat.not_dvd_of_pos_of_lt (Nat.pos_of_ne_zero hx) hlt

/-- The transform with one exponent of a valid pair undoes the transform with the other
(spec/42_rsa.md R194). -/
theorem rsaValue_rsaValue {n e d x : Nat} (h2 : 2 ≤ n) (hn : Squarefree n)
    (hed : e * d ≡ 1 [MOD carmichael n]) (hlt : x < n) :
    rsaValue (rsaValue x d n) e n = x := by
  rcases eq_or_ne x 0 with rfl | hx
  · rw [rsaValue_zero, rsaValue_zero]
  · rw [rsaValue_of_ne_zero hx, rsaValue_of_ne_zero (pow_mod_ne_zero d h2 hn hx hlt), ← Nat.pow_mod,
      ← pow_mul, Nat.mul_comm d e, pow_mod_eq_self h2 hn hed hx hlt]

end Sys2Proof.Machine

open Sys2Proof Sys2Proof.Machine

/-- Settles O47: the cases of `rsaCommand_of_holds`; an operand of length 0 is the integer 0. -/
theorem rsaTransforms : Obligations.RsaTransforms := by
  intro s x i ex hi hv hn h1 h3 h3' hin hout hl hx
  rw [exec_rsa hi, rsaCommand_of_holds ex hv (by omega) h1 h3 h3' hin hout hl hx]
  refine ⟨fun h => ?_, fun h => if_neg (Nat.not_lt.mpr h), fun h0 => ?_⟩
  · rw [if_pos h, storeBytes_completed_arg3]
    exact ⟨_, _, rfl, length_beBytes .., beInt_beBytes_of_lt h, Memory.stored_write .., rfl⟩
  · obtain rfl : x = [] := List.eq_nil_of_length_eq_zero (hl.trans h0)
    rw [beInt_nil, rsaValue_zero, if_pos (Nat.pow_pos (by decide)), storeBytes_completed_arg3,
      beBytes_zero_left]
    exact ⟨_, rfl, Memory.stored_write .., rfl⟩

/-- Settles O48: both values are below N, which fits the output length. -/
theorem rsaRoundTrip : Obligations.RsaRoundTrip := by
  intro x n e d outLen h2 hn hed hlt hlen
  have hpos : 0 < n := by omega
  have hfits {v : Nat} (hv : v < n) : v < 256 ^ outLen := hv.trans ((minlen_le_iff ..).mp hlen)
  have hpriv := hfits (rsaValue_lt (beInt x) d hpos)
  refine ⟨_, (rsa_eq _ _ _ _ hpos).trans (if_pos hpriv), ?_⟩
  rw [rsa_eq _ _ _ _ hpos, beInt_beBytes_of_lt hpriv, rsaValue_rsaValue h2 hn hed hlt,
    if_pos (hfits hlt)]
end

section
/-! SUPPORT. The commands of the HandshakeOrchestrator as a whole: they use neither HASH nor SCHED,
and HS_STATE moves as the table of spec/43_handshake.md R212 says. -/

namespace Sys2Proof.Machine

/-! ## HASH and SCHED -/

/-- The state with other values in HASH and SCHED. -/
def State.withHashSched (h : HashState) (c : Sched) (s : State) : State :=
  { s with hash := h, sched := c }

section
variable (h : HashState) (c : Sched) (s : State)

theorem certWithNonce_withHashSched (p : Params) (nonce : Bytes) :
    certWithNonce p nonce (s.withHashSched h c) =
      mapNext (State.withHashSched h c) (certWithNonce p nonce s) := by
  have hkm : (s.withHashSched h c).km = s.km := rfl
  unfold certWithNonce
  rw [hkm]
  dsimp only
  split <;> rfl

theorem acceptResponse_withHashSched (p : Params) (r : Bytes) :
    acceptResponse p r (s.withHashSched h c) =
      mapNext (State.withHashSched h c) (acceptResponse p r s) := by
  have hkm : (s.withHashSched h c).km = s.km := rfl
  refine ite_eq_mapNext rfl ?_
  rw [hkm]
  split
  · rfl
  dsimp only
  split
  · rfl
  · exact ite_eq_mapNext rfl rfl

/-- A command of the HandshakeOrchestrator answers the same whatever HASH and SCHED hold, and leaves
them there (spec/43_handshake.md R215). -/
theorem exec_withHashSched {i : Instr} (hi : i.isHs = true) :
    exec i (s.withHashSched h c) = mapNext (State.withHashSched h c) (exec i s) := by
  cases i with
  | hsStart => exact ite_eq_mapNext rfl rfl
  | hsCert =>
    exact ite_eq_mapNext rfl (ite_eq_mapNext rfl (ite_eq_mapNext rfl (ite_eq_mapNext rfl
      (certWithNonce_withHashSched h c (s.afterDraw 16) s.params (s.drawn 16)))))
  | hsResponse =>
    exact ite_eq_mapNext rfl (ite_eq_mapNext rfl (ite_eq_mapNext rfl
      (State.withBytes_eq_mapNext rfl fun r => acceptResponse_withHashSched h c s s.params r)))
  | hsConfirm | hsOpen => exact ite_eq_mapNext rfl (ite_eq_mapNext rfl rfl)
  | hsAbort => rfl
  | _ => cases hi

end

/-! ## The transitions of HS_STATE -/

section
variable {s t : State} {i : Instr}

/-- A command of the HandshakeOrchestrator ends with an error in Failed, or it raises none, had its
required state and leaves its next one (spec/43_handshake.md R212, R213). -/
theorem exec_hs_cases (hi : i.isHs = true) (h : exec i s = .next t) :
    (t.err = true ∧ t.hsState = .failed) ∨
      (t.err = s.err ∧ (∀ st, i.requiredHs = some st → s.hsState = st) ∧
        t.hsState = i.successHs s.hsState) := by
  have failed {codes : List ErrCode} (hf : s.HsFailsWith t codes) :
      t.err = true ∧ t.hsState = .failed := by
    obtain ⟨code, -, rfl⟩ := hf
    exact ⟨rfl, rfl⟩
  cases i with
  | hsStart =>
    rcases execHsStart_eq_next h with hf | ⟨-, rfl⟩
    · exact .inl (failed hf)
    · exact .inr ⟨rfl, nofun, rfl⟩
  | hsCert =>
    rcases execHsCert_eq_next h with hf | rfl | ⟨hst, -, -, _, -, rfl⟩
    · exact .inl (failed hf)
    · exact .inl ⟨rfl, rfl⟩
    · exact .inr ⟨rfl, fun _ hr => hst.trans (Option.some.inj hr), rfl⟩
  | hsResponse =>
    rcases execHsResponse_eq_next h with hf | ⟨hst, _, _, _, -, -, -, rfl⟩
    · exact .inl (failed hf)
    · exact .inr ⟨rfl, fun _ hr => hst.trans (Option.some.inj hr), rfl⟩
  | hsConfirm =>
    rcases execHsConfirm_eq_next h with hf | ⟨hst, -, rfl⟩
    · exact .inl (failed hf)
    · exact .inr ⟨rfl, fun _ hr => hst.trans (Option.some.inj hr), rfl⟩
  | hsOpen =>
    rcases execHsOpen_eq_next h with hf | ⟨hst, rfl⟩
    · exact .inl (failed hf)
    · exact .inr ⟨rfl, fun _ hr => hst.trans (Option.some.inj hr), rfl⟩
  | hsAbort => cases h; exact .inr ⟨rfl, nofun, rfl⟩
  | _ => cases hi

theorem exec_hsState_of_not_hs (hi : i.isHs = false) (h : exec i s = .next t) :
    t.hsState = s.hsState := by
  rw [exec_eq_frame h]
  exact if_neg (by simp [hi])

theorem State.writeCmd_hsState (s : State) (v : Word) : (s.writeCmd v).hsState = s.hsState := by
  unfold State.writeCmd
  split <;> rfl

/-- A host access keeps HS_STATE, or it is the soft reset and leaves Idle
(spec/70_reset_and_hazards.md R320). -/
theorem State.hostAccess_hsState {op : HostOp} (h : s.hostAccess op = .next t) :
    t.hsState = s.hsState ∨ op.resets s.params ∧ t.hsState = .idle := by
  rcases State.hostAccess_eq_next h with ⟨_, _, -, ht⟩ | ⟨addr, off, v, hop, hoff, -, -, ht⟩ |
    ⟨_, _, _, _, -, -, -, -, ht⟩ | ⟨-, ht⟩ | ⟨-, ht⟩
  case inr.inl =>
    rcases s.writeRegister_cases off v with ⟨rfl, hv, he⟩ | ⟨-, he⟩ | he
    · exact .inr ⟨hop ▸ ⟨hoff, hv⟩, by rw [ht, he]; rfl⟩
    · exact .inl (by rw [ht, he, State.writeCmd_hsState])
    · exact .inl (by rw [ht, he])
  all_goals exact .inl ((congrArg State.hsState ht).trans rfl)

/-- A step that changes HS_STATE runs the HS command in flight, or it is the soft-reset store. -/
theorem step_hsState_cases (h : step s = .next t) (hne : t.hsState ≠ s.hsState) :
    (∃ i, s.busy = true ∧ decode s.curCmd = .ok i ∧ i.isHs = true ∧
      step s = exec i { s with turns := s.turns.tail }) ∨
      (∃ op rest, s.script = op :: rest ∧ op.resets s.params) ∧ t.hsState = .idle := by
  rcases step_cases s with ⟨-, -, he⟩ | ⟨op, rest, hs, he⟩ | ⟨hb, i, hd, he⟩ | ⟨-, _, -, he⟩
  · rw [he] at h; cases h; exact absurd rfl hne
  · rcases State.hostAccess_hsState (he ▸ h) with hk | ⟨hr, hidle⟩
    · exact absurd (hk.trans s.popTurn_hsState) hne
    · exact .inr ⟨⟨op, rest, hs, s.popTurn_params ▸ hr⟩, hidle⟩
  · cases hi : i.isHs with
    | true => exact .inl ⟨i, hb, hd, hi, he⟩
    | false => exact absurd (exec_hsState_of_not_hs hi (he.symm.trans h)) hne
  · rw [he] at h; cases h; exact absurd rfl hne

end

end Sys2Proof.Machine

open Sys2Proof Sys2Proof.Machine

/-- Settles O28: `State.withHashSched` is the replacement of HASH and SCHED. -/
theorem handshakeUsesPrivateInstances : Obligations.HandshakeUsesPrivateInstances :=
  fun _ s h c hi => exec_withHashSched h c s hi

/-- Settles O50: a command by the way it ended, and a step by who took it. -/
theorem handshakeTransitions : Obligations.HandshakeTransitions := by
  refine ⟨fun i s t herr h => ⟨fun hi => exec_hsState_of_not_hs hi h, fun hi hok => ?_,
    fun hi hte => ?_, ?_, ?_⟩, fun _ => rfl, fun _ _ => step_hsState_cases⟩
  · rcases exec_hs_cases hi h with ⟨hte, -⟩ | ⟨-, htable⟩
    · simp [hok] at hte
    · exact htable
  · rcases exec_hs_cases hi h with ⟨-, hfailed⟩ | ⟨hte', -⟩
    · exact hfailed
    · simp [hte', herr] at hte
  · rintro rfl hte
    rcases execHsStart_eq_next h with ⟨code, hc, rfl⟩ | ⟨-, rfl⟩
    · exact List.mem_singleton.mp hc
    · exact absurd hte (by simp [herr])
  · rintro rfl
    cases h
    exact ⟨herr, rfl⟩

/-- Settles O51: the check of HS_STATE is the first of each command that makes it. -/
theorem sequenceCheckComesFirst : Obligations.SequenceCheckComesFirst := by
  intro i s st hr hne
  cases i with
  | hsCert | hsResponse | hsConfirm | hsOpen => cases hr; exact if_pos hne
  | _ => cases hr

/-- Settles O52: HS_START by KM.VALID; HS_ABORT makes no check. -/
theorem hsStartAndHsAbort : Obligations.HsStartAndHsAbort :=
  fun _ => ⟨fun hv => if_neg (by simp [hv]), fun hv => if_pos (by simp [hv]), rfl⟩
end

section
/-! SUPPORT. The byte strings of the handshake, byte by byte: the buffers of the signature
(spec/43_handshake.md R223) and of the unwrapping (R231), and the fields of the payload (R233). -/

namespace Sys2Proof.Machine

/-! ## Zero bytes and single bytes -/

@[simp] theorem byteAt_zeros (n j : Nat) : byteAt (zeros n) j = 0 := by
  rw [byteAt, zeros, List.getD_eq_getElem?_getD, List.getElem?_replicate]
  split <;> rfl

theorem length_spliceAt_singleton {s : Bytes} {a : Nat} (h : a < s.length) (b : Byte) :
    (spliceAt s a [b]).length = s.length := length_spliceAt _ _ _ h

theorem byteAt_spliceAt_singleton {s : Bytes} {a : Nat} (h : a < s.length) (b : Byte) (j : Nat) :
    byteAt (spliceAt s a [b]) j = if j = a then b else byteAt s j := by
  rw [byteAt_spliceAt h, List.length_singleton]
  by_cases hj : j = a
  · rw [if_pos (by omega), if_pos hj, hj, Nat.sub_self]; rfl
  · rw [if_neg (by omega), if_neg hj]

/-! ## The signature buffers -/

theorem byteAt_wrapDigest (p : Params) {d : Bytes} (hd : d.length = 20) (j : Nat) :
    byteAt (wrapDigest p d) j =
      if p.sigWrapOffset.val ≤ j ∧ j < p.sigWrapOffset.val + 20
      then byteAt d (j - p.sigWrapOffset.val) else 0 := by
  rw [wrapDigest, byteAt_spliceAt (by rw [hd, length_zeros]; omega), hd, byteAt_zeros]

/-- The pre-signature buffer before the keystream: the marker at 106 and the digest at 107
(spec/43_handshake.md R223). -/
def markedDigest (p : Params) (d : Bytes) : Bytes :=
  spliceAt (spliceAt (zeros 128) 106 [p.sigMarker]) 107 d

/-- The pre-signature buffer with the keystream XORed into its bytes 0 to 106
(spec/43_handshake.md R223). -/
def maskedDigest (p : Params) (d : Bytes) : Bytes :=
  spliceAt (markedDigest p d) 0 (xorBytes (slice (markedDigest p d) 0 107) (expand d 107))

/-- The last two writes: the top bit of byte 0 is cleared and byte 127 is the trailer
(spec/43_handshake.md R223). -/
theorem sigBuffer_eq (p : Params) (d : Bytes) : sigBuffer p d =
    spliceAt (spliceAt (maskedDigest p d) 0 [byteAt (maskedDigest p d) 0 &&& 0x7F]) 127
      [p.sigTrailer] := rfl

theorem length_marker (p : Params) : (spliceAt (zeros 128) 106 [p.sigMarker]).length = 128 :=
  length_spliceAt_singleton (by simp) _

section
variable (p : Params) {d : Bytes} (hd : d.length = 20)
include hd

theorem length_markedDigest : (markedDigest p d).length = 128 := by
  have hm := length_marker p
  rw [markedDigest, length_spliceAt _ _ _ (by omega), hm]

theorem byteAt_markedDigest (j : Nat) : byteAt (markedDigest p d) j =
    if 107 ≤ j ∧ j < 127 then byteAt d (j - 107) else if j = 106 then p.sigMarker else 0 := by
  have hm := length_marker p
  rw [markedDigest, byteAt_spliceAt (by omega), byteAt_spliceAt_singleton (by simp), hd,
    byteAt_zeros]

theorem length_mask :
    (xorBytes (slice (markedDigest p d) 0 107) (expand d 107)).length = 107 := by
  simp [length_markedDigest p hd]

theorem length_maskedDigest : (maskedDigest p d).length = 128 := by
  have hm := length_mask p hd
  have hl := length_markedDigest p hd
  rw [maskedDigest, length_spliceAt _ _ _ (by omega), hl]

theorem byteAt_maskedDigest (j : Nat) : byteAt (maskedDigest p d) j =
    if j < 107 then byteAt (markedDigest p d) j ^^^ byteAt (expand d 107) j
    else byteAt (markedDigest p d) j := by
  have hm := length_mask p hd
  have hl := length_markedDigest p hd
  rw [maskedDigest, byteAt_spliceAt (by omega), hm]
  by_cases hj : j < 107
  · rw [if_pos (by omega), if_pos hj, Nat.sub_zero,
      byteAt_xorBytes (by simp; omega) (by simpa using hj), byteAt_slice (by omega), Nat.zero_add]
  · rw [if_neg (by omega), if_neg hj]

theorem byteAt_sigBuffer (j : Nat) : byteAt (sigBuffer p d) j =
    if j = 127 then p.sigTrailer else if j = 0 then byteAt (maskedDigest p d) 0 &&& 0x7F
    else byteAt (maskedDigest p d) j := by
  have hl : 0 < (maskedDigest p d).length := by rw [length_maskedDigest p hd]; decide
  rw [sigBuffer_eq, byteAt_spliceAt_singleton, byteAt_spliceAt_singleton hl]
  rw [length_spliceAt_singleton hl, length_maskedDigest p hd]
  decide

/-- Before the digest the buffer is the keystream, with the marker in byte 106. -/
theorem byteAt_maskedDigest_keystream {j : Nat} (hj : j < 106) :
    byteAt (maskedDigest p d) j = byteAt (expand d 107) j := by
  rw [byteAt_maskedDigest p hd, if_pos (by omega), byteAt_markedDigest p hd, if_neg (by omega),
    if_neg (by omega)]
  exact BitVec.zero_xor

theorem byteAt_maskedDigest_marker :
    byteAt (maskedDigest p d) 106 = p.sigMarker ^^^ byteAt (expand d 107) 106 := by
  rw [byteAt_maskedDigest p hd, if_pos (by decide), byteAt_markedDigest p hd, if_neg (by decide),
    if_pos rfl]

theorem byteAt_maskedDigest_digest {j : Nat} (hj : j < 20) :
    byteAt (maskedDigest p d) (107 + j) = byteAt d j := by
  rw [byteAt_maskedDigest p hd, if_neg (by omega), byteAt_markedDigest p hd, if_pos (by omega),
    Nat.add_sub_cancel_left]

end

/-! ## Unwrapping -/

/-- The 20 bytes that the first XOR of `unwrap(X)` forms (spec/43_handshake.md R231). -/
def unwrapSeed (x : Bytes) : Bytes := xorBytes (slice x 1 21) (expand (slice x 21 128) 20)

/-- The buffer after the first XOR of `unwrap(X)` (spec/43_handshake.md R231). -/
def halfUnwrapped (x : Bytes) : Bytes := spliceAt x 1 (unwrapSeed x)

section
variable {x : Bytes} (hx : x.length = 128)
include hx

theorem length_unwrapSeed : (unwrapSeed x).length = 20 := by
  simp [unwrapSeed, hx]

theorem byteAt_unwrapSeed {j : Nat} (hj : j < 20) :
    byteAt (unwrapSeed x) j = byteAt x (1 + j) ^^^ byteAt (expand (slice x 21 128) 20) j := by
  rw [unwrapSeed, byteAt_xorBytes (by simp; omega) (by simpa using hj), byteAt_slice (by omega)]

/-- The seed byte by byte, as R231 writes it. -/
theorem unwrapSeed_eq_map : unwrapSeed x = (List.range 20).map fun j =>
    byteAt x (1 + j) ^^^ byteAt (expand (slice x 21 128) 20) j := by
  refine bytes_ext (by rw [length_unwrapSeed hx]; rfl) fun j hj => ?_
  rw [length_unwrapSeed hx] at hj
  rw [byteAt_unwrapSeed hx hj]
  simp [byteAt, hj]

theorem length_halfUnwrapped : (halfUnwrapped x).length = 128 := by
  have hs := length_unwrapSeed hx
  rw [halfUnwrapped, length_spliceAt _ _ _ (by omega), hx]

theorem byteAt_halfUnwrapped (j : Nat) : byteAt (halfUnwrapped x) j =
    if 1 ≤ j ∧ j < 21 then byteAt (unwrapSeed x) (j - 1) else byteAt x j := by
  have hs := length_unwrapSeed hx
  rw [halfUnwrapped, byteAt_spliceAt (by omega), hs]

/-- The seed stands in bytes 1 to 20 after the first XOR. -/
theorem slice_halfUnwrapped : slice (halfUnwrapped x) 1 21 = unwrapSeed x := by
  have hl := length_halfUnwrapped hx
  have hs := length_unwrapSeed hx
  refine bytes_ext (by rw [length_slice]; omega) fun j hj => ?_
  rw [length_slice] at hj
  rw [byteAt_slice (by omega), byteAt_halfUnwrapped hx, if_pos (by omega), Nat.add_sub_cancel_left]

/-- The second XOR, with the keystream of the seed. -/
theorem unwrapBuffer_eq : unwrapBuffer x = spliceAt (halfUnwrapped x) 21
    (xorBytes (slice (halfUnwrapped x) 21 128) (expand (unwrapSeed x) 107)) := by
  rw [← slice_halfUnwrapped hx]
  rfl

theorem byteAt_unwrapBuffer {j : Nat} (hj : j < 128) : byteAt (unwrapBuffer x) j =
    if 21 ≤ j then byteAt x j ^^^ byteAt (expand (unwrapSeed x) 107) (j - 21)
    else byteAt (halfUnwrapped x) j := by
  have hl := length_halfUnwrapped hx
  have hm : (xorBytes (slice (halfUnwrapped x) 21 128)
      (expand (unwrapSeed x) 107)).length = 107 := by simp [hl]
  rw [unwrapBuffer_eq hx, byteAt_spliceAt (by omega), hm]
  by_cases h21 : 21 ≤ j
  · rw [if_pos (by omega), if_pos h21, byteAt_xorBytes (by simp; omega) (by simp; omega),
      byteAt_slice (by omega), Nat.add_sub_cancel' h21, byteAt_halfUnwrapped hx, if_neg (by omega)]
  · rw [if_neg (by omega), if_neg h21]

end

end Sys2Proof.Machine

open Sys2Proof Sys2Proof.Machine

/-- Settles O54: the writes of R223 one after the other. -/
theorem signatureBufferLayout : Obligations.SignatureBufferLayout := by
  intro p d hd
  refine ⟨length_wrapDigest p hd, fun j _ => byteAt_wrapDigest p hd j, length_sigBuffer p hd,
    ?_, fun j h1 h2 => ?_, ?_, fun j hj => ?_, ?_⟩ <;> rw [byteAt_sigBuffer p hd]
  · rw [if_neg (by decide), if_pos rfl, byteAt_maskedDigest_keystream p hd (by decide)]
  · rw [if_neg (by omega), if_neg (by omega), byteAt_maskedDigest_keystream p hd (by omega)]
  · exact byteAt_maskedDigest_marker p hd
  · rw [if_neg (by omega), if_neg (by omega), byteAt_maskedDigest_digest p hd hj]
  · exact if_pos rfl

/-- Settles O56: the statement's seed is `unwrapSeed`, and each XOR leaves the other bytes. -/
theorem unwrapLayout : Obligations.UnwrapLayout := by
  intro x hx
  dsimp only
  rw [← unwrapSeed_eq_map hx]
  refine ⟨length_unwrapBuffer hx, ?_, fun j hj => ?_, fun j hj => ?_, length_unwrap hx,
    fun j hj => byteAt_slice (by omega)⟩ <;> rw [byteAt_unwrapBuffer hx (by omega)]
  · rw [if_neg (by decide), byteAt_halfUnwrapped hx, if_neg (by decide)]
  · rw [if_neg (by omega), byteAt_halfUnwrapped hx, if_pos (by omega), Nat.add_sub_cancel_left]
  · rw [if_pos (by omega), Nat.add_sub_cancel_left]
end

section
/-! SUPPORT. The fields of the payload (spec/43_handshake.md R233): taking a field off what is left
of it, and the eight fields one after the other. -/

namespace Sys2Proof.Machine

/-- From the cursor `q` on the payload holds `rest` and nothing else. -/
def RestAt (pl : Bytes) (q : Nat) (rest : Bytes) : Prop := q ≤ pl.length ∧ pl.drop q = rest

theorem restAt_zero_iff (pl rest : Bytes) : RestAt pl 0 rest ↔ pl = rest := by
  simp [RestAt]

section
variable {pl f tail : Bytes} {q n : Nat}

/-- A field is taken exactly when what is left begins with its bytes. -/
theorem takeField_iff : (∃ q', takeField pl q n = some (f, q') ∧ RestAt pl q' tail) ↔
    f.length = n ∧ RestAt pl q (f ++ tail) := by
  constructor
  · rintro ⟨q', h, -, hrest⟩
    obtain ⟨hle, rfl, rfl⟩ := takeField_eq_some h
    refine ⟨by rw [length_slice]; omega, by omega, ?_⟩
    rw [slice, Nat.add_sub_cancel_left, ← hrest, ← List.drop_drop, List.take_append_drop]
  · rintro ⟨rfl, hq, hrest⟩
    have hlen := congrArg List.length hrest
    rw [List.length_drop, List.length_append] at hlen
    have hslice : slice pl q (q + f.length) = f := by
      rw [slice, Nat.add_sub_cancel_left, hrest, List.take_left]
    refine ⟨q + f.length, ?_, by omega, ?_⟩
    · rw [takeField, if_neg (by omega), hslice]
    · rw [← List.drop_drop, hrest, List.drop_left]

/-- A length and its field are taken one after the other. -/
theorem takePrefixed_eq_some {r : Bytes × Nat} : takePrefixed pl q n = some r ↔
    ∃ l q', takeField pl q n = some (l, q') ∧ takeField pl q' (beInt l) = some r := by
  rw [takePrefixed]
  cases takeField pl q n with
  | none => simp
  | some lq =>
    obtain ⟨l, q'⟩ := lq
    simp

/-- A field with a length before it is taken exactly when what is left begins with its length, in
`n` big-endian bytes, and its bytes. -/
theorem takePrefixed_iff : (∃ q', takePrefixed pl q n = some (f, q') ∧ RestAt pl q' tail) ↔
    f.length < 256 ^ n ∧ RestAt pl q (beBytes f.length n ++ (f ++ tail)) := by
  constructor
  · rintro ⟨q', h, hrest⟩
    obtain ⟨l, q1, hl, hf⟩ := takePrefixed_eq_some.mp h
    obtain ⟨hflen, hrest⟩ := takeField_iff.mp ⟨q', hf, hrest⟩
    obtain ⟨rfl, hrest⟩ := takeField_iff.mp ⟨q1, hl, hrest⟩
    rw [hflen, beBytes_beInt]
    exact ⟨beInt_lt l, hrest⟩
  · rintro ⟨hlt, hrest⟩
    obtain ⟨q1, hl, hrest⟩ := takeField_iff.mpr ⟨length_beBytes .., hrest⟩
    obtain ⟨q', hf, hrest⟩ := takeField_iff.mpr ⟨(beInt_beBytes_of_lt hlt).symm, hrest⟩
    exact ⟨q', takePrefixed_eq_some.mpr ⟨_, q1, hl, hf⟩, hrest⟩

/-- A field that is taken leaves a rest. -/
theorem restAt_of_takePrefixed {q' : Nat} (h : takePrefixed pl q n = some (f, q')) :
    RestAt pl q' (pl.drop q') := by
  obtain ⟨l, q1, -, hf⟩ := takePrefixed_eq_some.mp h
  obtain ⟨hle, -, rfl⟩ := takeField_eq_some hf
  exact ⟨hle, rfl⟩

end

end Sys2Proof.Machine

open Sys2Proof Sys2Proof.Machine

/-- Settles O55: the fields are taken off the payload from the first to the last; read from the last
to the first, what is left after each is laid out as R233 says. -/
theorem payloadParsesAsItsFields : Obligations.PayloadParsesAsItsFields := by
  intro pl echo mh
  simp only [parsePayload, Option.bind_eq_bind, Option.bind_eq_some_iff]
  constructor
  · rintro ⟨⟨f0, q1⟩, h0, ⟨cert, q2⟩, h1, ⟨echo', q3⟩, h2, ⟨rand, q4⟩, h3, ⟨f1, q5⟩, h4, ⟨sig, q6⟩,
      h5, ⟨f2, q7⟩, h6, ⟨mh', q8⟩, h7, hout⟩
    obtain ⟨h20, ⟨⟩⟩ := Option.ite_none_right_eq_some.mp hout
    obtain ⟨-, r⟩ := takePrefixed_iff.mp ⟨q8, h7, restAt_of_takePrefixed h7⟩
    obtain ⟨hf2, r⟩ := takeField_iff.mp ⟨q7, h6, r⟩
    obtain ⟨hsig, r⟩ := takePrefixed_iff.mp ⟨q6, h5, r⟩
    obtain ⟨hf1, r⟩ := takeField_iff.mp ⟨q5, h4, r⟩
    obtain ⟨hrand, r⟩ := takePrefixed_iff.mp ⟨q4, h3, r⟩
    obtain ⟨hecho, r⟩ := takePrefixed_iff.mp ⟨q3, h2, r⟩
    obtain ⟨hcert, r⟩ := takePrefixed_iff.mp ⟨q2, h1, r⟩
    obtain ⟨hf0, r⟩ := takeField_iff.mp ⟨q1, h0, r⟩
    obtain ⟨skip0, rfl⟩ := List.length_eq_one_iff.mp hf0
    obtain ⟨skip1, rfl⟩ := List.length_eq_one_iff.mp hf1
    obtain ⟨skip2, rfl⟩ := List.length_eq_one_iff.mp hf2
    refine ⟨skip0, skip1, skip2, cert, rand, sig, pl.drop q8, hcert, hecho, hrand, hsig, h20, ?_⟩
    simpa [payloadOf] using (restAt_zero_iff ..).mp r
  · rintro ⟨skip0, skip1, skip2, cert, rand, sig, tail, hcert, hecho, hrand, hsig, h20, hpl⟩
    have r := (restAt_zero_iff ..).mpr hpl
    simp only [payloadOf, List.append_assoc] at r
    obtain ⟨q1, h0, r⟩ := takeField_iff.mpr ⟨rfl, r⟩
    obtain ⟨q2, h1, r⟩ := takePrefixed_iff.mpr ⟨hcert, r⟩
    obtain ⟨q3, h2, r⟩ := takePrefixed_iff.mpr ⟨hecho, r⟩
    obtain ⟨q4, h3, r⟩ := takePrefixed_iff.mpr ⟨hrand, r⟩
    obtain ⟨q5, h4, r⟩ := takeField_iff.mpr ⟨rfl, r⟩
    obtain ⟨q6, h5, r⟩ := takePrefixed_iff.mpr ⟨hsig, r⟩
    obtain ⟨q7, h6, r⟩ := takeField_iff.mpr ⟨rfl, r⟩
    obtain ⟨q8, h7, -⟩ := takePrefixed_iff.mpr ⟨by omega, r⟩
    exact ⟨_, h0, _, h1, _, h2, _, h3, _, h4, _, h5, _, h6, _, h7, if_pos h20⟩
end

section
/-! SUPPORT. The commands of the HandshakeOrchestrator in their required states: what each leaves
once its checks pass (spec/43_handshake.md R221 to R245). -/

namespace Sys2Proof.Machine

variable {s : State}

/-! ## HS_CERT -/

theorem execHsCert_of_checks (hst : s.hsState = .reset) (hout : s.arg2 + 785 ≤ 4096)
    (hts : s.ltstatus = 0) (hcl : s.km.certLen = Config.certBytes) :
    execHsCert s = certWithNonce s.params (s.drawn 16) (s.afterDraw 16) := by
  rw [execHsCert, if_neg (not_not.mpr hst), (inbuf_iff ..).mpr hout, if_neg (by decide),
    if_neg (not_not.mpr hts), if_neg (not_not.mpr hcl)]

/-- With loaded key material the signature is the transform of the pre-signature buffer
(spec/43_handshake.md R223). -/
theorem sigBlock_of_loaded {km : KeyMaterial} (hk : km.Loaded) (p : Params) (t : Bytes) :
    sigBlock p km t =
      some (beBytes (rsaValue (beInt (sigBuffer p (sigDigest p t))) km.d km.n) 128) := by
  have hn : 0 < km.n := by have := hk.n_ge; omega
  rw [sigBlock, rsa_eq _ _ _ _ hn, if_pos ((rsaValue_lt _ _ hn).trans hk.n_lt)]

theorem certWithNonce_of_sigBlock {p : Params} {nonce sig : Bytes}
    (h : sigBlock p s.km (slice (certBody s.km.cert nonce) 2 654) = some sig) :
    certWithNonce p nonce s = .next (State.completed
      { s.storeBytes s.arg2 (certBody s.km.cert nonce ++ sig) with
        session := { s.session with nonce := nonce }, hsState := .certSent } 785) := by
  simp only [certWithNonce, h]
  rfl

/-! ## HS_RESPONSE -/

theorem failure_eq_hsFailed {i : Instr} (hi : i.isHs = true) (s : State) (code : ErrCode) :
    i.failure s code = s.hsFailed code := if_pos hi

theorem framingOk_iff (r : Bytes) : framingOk r = true ↔ WellFramed r := by
  simp [framingOk, WellFramed, and_assoc]

/-- The blob of a response to the power KM.D modulo KM.N (spec/43_handshake.md R235). -/
def openedBlob (km : KeyMaterial) (r : Bytes) : Bytes :=
  beBytes (rsaValue (beInt (slice r 4 132)) km.d km.n) 128

theorem rsa_blob {km : KeyMaterial} (h2 : 2 ≤ km.n) (hn : km.n < 256 ^ 128) (r : Bytes) :
    rsa (slice r 4 132) km.d km.n 128 = some (openedBlob km r) := by
  have hpos : 0 < km.n := by omega
  rw [rsa_eq _ _ _ _ hpos, if_pos ((rsaValue_lt _ _ hpos).trans hn), openedBlob]

theorem execHsResponse_of_checks {r : Bytes} (hst : s.hsState = .certSent)
    (hin : s.arg0 + s.arg1 ≤ 4096) (hts : s.ltstatus = 0) (hl : r.length = s.arg1)
    (hr : s.buf.Holds s.arg0 r) : execHsResponse s = acceptResponse s.params r s := by
  rw [execHsResponse, if_neg (not_not.mpr hst), (inbuf_iff ..).mpr hin, if_neg (by decide),
    if_neg (not_not.mpr hts), State.withBytes_of_holds _ hr hl]

theorem acceptResponse_of_not_wellFramed {p : Params} {r : Bytes} (hr : ¬WellFramed r) :
    acceptResponse p r s = .next (s.hsFailed .framing) := by
  have hf : framingOk r = false := by rw [← Bool.not_eq_true, framingOk_iff]; exact hr
  rw [acceptResponse, hf]
  rfl

section
variable {p : Params} {r : Bytes} (hr : WellFramed r) (h2 : 2 ≤ s.km.n) (hn : s.km.n < 256 ^ 128)
include hr h2 hn

theorem acceptResponse_of_unparsable
    (hp : parsePayload (decryptPayload p (unwrap (openedBlob s.km r)) r) = none) :
    acceptResponse p r s = .next (s.hsFailed .framing) := by
  simp [acceptResponse, (framingOk_iff r).mpr hr, rsa_blob h2 hn, hp]

/-- A payload that parses is decided by its echo (spec/43_handshake.md R234). -/
theorem acceptResponse_of_parsed {echo mh : Bytes}
    (hp : parsePayload (decryptPayload p (unwrap (openedBlob s.km r)) r) = some (echo, mh)) :
    acceptResponse p r s =
      if echo ≠ s.session.nonce then .next (s.hsFailed .auth)
      else .next (State.completed
        { s with
          session := { s.session with
            skey := unwrap (openedBlob s.km r), macHash := mh, macCount := macCountOf p mh }
          hsState := .responseValidated } 0) := by
  simp [acceptResponse, (framingOk_iff r).mpr hr, rsa_blob h2 hn, hp]

end

/-! ## HS_CONFIRM and HS_OPEN -/

/-- The MAC of a whole block takes the first subkey (spec/41_cipher.md R170). -/
theorem mac_of_length_eq (k : RoundKeys) {m : Bytes} (h : m.length = 16) :
    mac k m = encblk k (xorBytes m (dbl (encblk k (zeros 16)))) := by
  simp only [mac, if_pos h]

/-- The MAC of a shorter string takes the second subkey (spec/41_cipher.md R170). -/
theorem mac_of_length_ne (k : RoundKeys) {m : Bytes} (h : m.length ≠ 16) :
    mac k m = encblk k (xorBytes (m ++ [0x80] ++ zeros (15 - m.length))
      (dbl (dbl (encblk k (zeros 16))))) := by
  simp only [mac, if_neg h]

theorem execHsConfirm_of_checks (hst : s.hsState = .responseValidated) (hout : s.arg2 + 20 ≤ 4096) :
    execHsConfirm s = .next (State.completed
      { s.storeBytes s.arg2 (confirmMessage s.session.skey) with hsState := .confirmed } 20) := by
  rw [execHsConfirm, if_neg (not_not.mpr hst), (inbuf_iff ..).mpr hout]
  rfl

theorem execHsOpen_of_checks (hst : s.hsState = .confirmed) (hts : s.ltstatus = 0) :
    execHsOpen s = .next (State.completed
      { s with enable := enableWordsOf s.session.skey s.session.macCount,
               hsState := .sessionOpen } 0) := by
  rw [execHsOpen, if_neg (not_not.mpr hst), if_neg (not_not.mpr hts)]

end Sys2Proof.Machine

open Sys2Proof Sys2Proof.Machine

/-- Settles O53: with a modulus of at most 128 bytes the signature never fails. -/
theorem hsCertBuildsTheMessage : Obligations.HsCertBuildsTheMessage := by
  intro s hk hst hout hts hcl nonce body
  have hnonce : nonce.length = 16 := by simp [nonce, State.drawn]
  have hbody : body.length = 657 := length_certBody (hk.cert_length.trans hcl) hnonce
  have hlt := (rsaValue_lt (beInt (sigBuffer s.params (sigDigest s.params (slice body 2 654))))
    s.km.d (show 0 < s.km.n by have := hk.n_ge; omega)).trans hk.n_lt
  exact ⟨_, _, (execHsCert_of_checks hst hout hts hcl).trans
      (certWithNonce_of_sigBlock (sigBlock_of_loaded hk s.params (slice body 2 654))),
    hnonce, hbody, length_beBytes .., beInt_beBytes_of_lt hlt, Memory.stored_write .., rfl⟩

/-- Settles O57: the statement's transform is `openedBlob`. -/
theorem hsResponseAcceptsTheEcho : Obligations.HsResponseAcceptsTheEcho := by
  intro s r mh h2 hn hst hin hts hl hr hf x hp
  exact (execHsResponse_of_checks hst hin hts hl hr).trans
    ((acceptResponse_of_parsed hf h2 hn hp).trans (if_neg (not_not.mpr rfl)))

/-- Settles O58: the frame is checked first, then the payload is parsed, then the echo compared. -/
theorem hsResponseTurnsAway : Obligations.HsResponseTurnsAway := by
  intro s r hst hin hts hl hr x pl
  rw [show exec .hsResponse s = execHsResponse s from rfl,
    execHsResponse_of_checks hst hin hts hl hr]
  simp only [failure_eq_hsFailed (i := .hsResponse) rfl]
  exact ⟨acceptResponse_of_not_wellFramed, fun hf h2 hn =>
    ⟨acceptResponse_of_unparsable hf h2 hn, fun echo mh hp hne =>
      (acceptResponse_of_parsed hf h2 hn hp).trans (if_pos hne)⟩⟩

/-- Settles O59: the seed of the confirmation has 16 bytes, so its MAC takes the first subkey. -/
theorem hsConfirmBuildsTheMessage : Obligations.HsConfirmBuildsTheMessage := by
  intro s hst hout k k1
  have hmac : mac k confirmSeed = encblk k (xorBytes (zeros 15 ++ [0x01]) k1) :=
    mac_of_length_eq k length_confirmSeed
  rw [← hmac]
  exact ⟨_, execHsConfirm_of_checks hst hout, Memory.stored_write .., rfl⟩

/-- Settles O60: the counter has 4 bytes, so its MAC takes the second subkey. -/
theorem hsOpenDerivesTheWords : Obligations.HsOpenDerivesTheWords := by
  intro s hst hts k k2 m
  have hmac : mac k (be32 s.session.macCount) = m :=
    (mac_of_length_ne k (by rw [length_be32]; decide)).trans (by rw [length_be32]; rfl)
  rw [← hmac]
  exact execHsOpen_of_checks hst hts
end

section
/-! SUPPORT. Key material: what KM_LOAD answers in each case (spec/44_keymaterial.md R261), and
which steps change KM while it is loaded (R262). -/

namespace Sys2Proof.Machine

variable {s t : State}

/-! ## KM_LOAD -/

/-- The check of KM.VALID is the first. -/
theorem execKmLoad_of_valid (hv : s.km.valid = true) :
    execKmLoad s = .next (s.errored .kmLocked) := if_pos hv

section
variable {im : Bytes} (hv : s.km.valid = false) (hin : s.arg0 + 1037 ≤ 4096)
  (hl : im.length = 1037) (him : s.buf.Holds s.arg0 im)
include hv hin hl him

/-- Once both checks pass, the image decides. -/
theorem execKmLoad_of_checks : execKmLoad s =
    .next ((parseImage im).elim (s.errored .kmInvalid)
      fun km => State.completed { s with km := km } 0) := by
  rw [execKmLoad, hv, if_neg (by decide), imageBytes, (inbuf_iff ..).mpr hin, if_neg (by decide),
    State.withBytes_of_holds _ him hl]
  cases parseImage im <;> rfl

theorem execKmLoad_of_parsed {km : KeyMaterial} (hp : parseImage im = some km) :
    execKmLoad s = .next (State.completed { s with km := km } 0) := by
  rw [execKmLoad_of_checks hv hin hl him, hp, Option.elim_some]

theorem execKmLoad_of_unparsable (hp : parseImage im = none) :
    execKmLoad s = .next (s.errored .kmInvalid) := by
  rw [execKmLoad_of_checks hv hin hl him, hp, Option.elim_none]

end

/-! ## Steps while key material is loaded -/

/-- A store of the soft-reset bit to CTRL that does not stop is the soft reset
(spec/10_state.md R23). -/
theorem State.hostAccess_of_resets {op : HostOp} (hr : op.resets s.params)
    (h : s.hostAccess op = .next t) : t = s.softReset := by
  rcases State.hostAccess_eq_next h with ⟨_, _, rfl, -⟩ | ⟨addr, off, v, rfl, hoff, -, -, rfl⟩ |
    ⟨_, addr, k, _, rfl, hoff, -⟩ | ⟨rfl, -⟩ | ⟨rfl, -⟩
  case inr.inl =>
    obtain ⟨hctrl, hbit⟩ := hr
    obtain rfl : off = 0x004 := Option.some.inj (hoff.symm.trans hctrl)
    exact if_pos hbit
  case inr.inr.inl =>
    have hk : 0x1000 + k = 0x004 := Option.some.inj (hoff.symm.trans hr.1)
    omega
  all_goals exact hr.elim

/-- Of the Host's accesses none but the soft reset changes KM. -/
theorem State.hostAccess_km {op : HostOp} (h : s.hostAccess op = .next t) :
    t.km = s.km ∨ op.resets s.params ∧ t = s.softReset := by
  by_cases hr : op.resets s.params
  · exact .inr ⟨hr, State.hostAccess_of_resets hr h⟩
  · obtain ⟨-, -, hkm, -⟩ := hostAccessKeepsInternalState s t op h hr
    exact .inl hkm

/-- Key material that is loaded stays through every command: KM_LOAD, its only writer, is locked. -/
theorem exec_km_of_valid {i : Instr} (hv : s.km.valid = true) (h : exec i s = .next t) :
    t.km = s.km := by
  by_cases hi : i = .kmLoad
  · subst hi
    cases (execKmLoad_of_valid hv).symm.trans h
    rfl
  · obtain ⟨-, -, hkm, -⟩ := writersOfInternalState i s t h
    exact hkm hi

/-- A step with key material loaded keeps it, or it is the soft-reset store. -/
theorem step_km_of_valid (hv : s.km.valid = true) (h : step s = .next t) :
    t.km = s.km ∨
      (∃ op rest, s.script = op :: rest ∧ op.resets s.params) ∧ ∃ u : State, t = u.softReset := by
  rcases step_cases s with ⟨-, -, he⟩ | ⟨op, rest, hs, he⟩ | ⟨-, i, -, he⟩ | ⟨-, _, -, he⟩
  · cases he.symm.trans h
    exact .inl rfl
  · rcases State.hostAccess_km (he.symm.trans h) with hk | ⟨hr, ht⟩
    · exact .inl (hk.trans s.popTurn_km)
    · exact .inr ⟨⟨op, rest, hs, s.popTurn_params ▸ hr⟩, _, ht⟩
  · exact .inl (exec_km_of_valid (s := { s with turns := s.turns.tail }) hv (he.symm.trans h))
  · cases he.symm.trans h
    exact .inl rfl

end Sys2Proof.Machine

open Sys2Proof Sys2Proof.Machine

/-- Settles O30: no command and no host access but the soft reset writes KM. -/
theorem keyMaterialIsLocked : Obligations.KeyMaterialIsLocked := by
  intro s hv
  refine ⟨fun _ _ => exec_km_of_valid hv, execKmLoad_of_valid hv, fun t h => ?_⟩
  rcases step_km_of_valid hv h with hk | ⟨hreset, u, rfl⟩
  · exact .inl hk
  · exact .inr ⟨hreset, rfl⟩

/-- Settles O49: `parseImage_eq_some` says which images are well formed. -/
theorem kmLoadReadsTheImage : Obligations.KmLoadReadsTheImage := by
  intro s im el nl dl cl n hv hin hl him hel hnl hdl hcl hn
  subst el nl dl cl n
  refine ⟨fun ⟨hel, hnl, hdl, hcl, hn⟩ => ?_, fun hbad => ?_⟩
  · refine execKmLoad_of_parsed hv hin hl him
      ((parseImage_eq_some ..).mpr ⟨hel, hnl, hdl, hcl, ?_, rfl⟩)
    simpa only using hn
  · refine execKmLoad_of_unparsable hv hin hl him
      (Option.eq_none_iff_forall_ne_some.mpr fun km hk => ?_)
    obtain ⟨hel, hnl, hdl, hcl, hn, hkm⟩ := (parseImage_eq_some ..).mp hk
    rw [hkm] at hn
    exact hbad ⟨hel, hnl, hdl, hcl, by simpa only using hn⟩

/-- Settles O35: neither command makes a check. -/
theorem nopAndHashResetComplete : Obligations.NopAndHashResetComplete := fun _ => ⟨rfl, rfl⟩
end

section
/-! SUPPORT. How a command ends: the first of its checks that fails decides its error, and once all
pass only the errors on the data it reads remain (spec/60_exceptions.md R282 to R284). -/

namespace Sys2Proof

open Machine

/-- From `s` to `t` command `i` raised no error, or it raised one of its errors on the data with no
effect but that of an error; HS_CERT has then drawn its nonce (log 3). -/
def Instr.EndsOnData (i : Instr) (s t : State) : Prop :=
  t.err = s.err ∨ ∃ code ∈ i.dataErrors,
    t = { i.failure s code with draws := t.draws, randomInput := t.randomInput }

end Sys2Proof

namespace Sys2Proof.Machine

/-! ## The first check that fails -/

theorem firstFailed_cons (c : Bool) (code : ErrCode) (cs : List (Bool × ErrCode)) :
    firstFailed ((c, code) :: cs) = if c = true then firstFailed cs else some code := by
  cases c <;> rfl

/-- Two checks in a row with one code are one check. -/
theorem firstFailed_and (a b : Bool) (code : ErrCode) (cs : List (Bool × ErrCode)) :
    firstFailed ((a && b, code) :: cs) = firstFailed ((a, code) :: (b, code) :: cs) := by
  cases a <;> rfl

/-- The first check that fails is one of the checks. -/
theorem mem_of_firstFailed_eq_some {cs : List (Bool × ErrCode)} {code : ErrCode}
    (h : firstFailed cs = some code) : ∃ c ∈ cs, c.2 = code := by
  obtain ⟨c, hc, hcode⟩ := Option.map_eq_some_iff.mp h
  exact ⟨c, List.mem_of_find?_eq_some hc, hcode⟩

theorem optionalInbuf_eq (s : State) (present : Bool) :
    s.optionalInbuf present = (!present || inbuf s.arg4 16) := by
  cases present <;> rfl

/-- The checks of the single-block commands are those of their row (spec/60_exceptions.md R282). -/
theorem blockCheck_eq_firstFailed (s : State) (seeded : Bool) :
    blockCheck s seeded = firstFailed ((Instr.aesEncBlock seeded).checks s) := by
  simp only [blockCheck, optionalInbuf_eq, Instr.checks, firstFailed_cons]
  cases s.sched.valid
  · rfl
  cases inbuf s.arg0 16
  · rfl
  cases inbuf s.arg2 16
  · rfl
  cases !seeded || inbuf s.arg4 16 <;> rfl

/-- The checks of the chained commands are those of their row (spec/60_exceptions.md R282). -/
theorem chainCheck_eq_firstFailed (s : State) (zeroIv : Bool) :
    chainCheck s zeroIv = firstFailed ((Instr.aesChainEnc zeroIv).checks s) := by
  simp only [chainCheck, optionalInbuf_eq, Bool.not_not, Instr.checks, firstFailed_cons]
  cases s.sched.valid
  · rfl
  cases inbuf s.arg0 s.arg1
  · rfl
  cases inbuf s.arg2 s.arg1
  · rfl
  cases zeroIv || inbuf s.arg4 16 <;> rfl

/-! ## Outcomes -/

/-- If the outcome is a next state, that state meets `P`. -/
def NextMeets (r : Result) (P : State → Prop) : Prop := ∀ t, r = .next t → P t

/-- The outcome is `failure code` for the first of the checks that fails, and if all pass a next
state meets `P`. -/
def DecidedBy (checks : List (Bool × ErrCode)) (failure : ErrCode → State) (P : State → Prop)
    (r : Result) : Prop :=
  (∀ code, firstFailed checks = some code → r = .next (failure code)) ∧
    (firstFailed checks = none → NextMeets r P)

section
variable {r : Result} {P : State → Prop} {s : State}

namespace NextMeets

theorem next {t : State} (h : P t) : NextMeets (.next t) P := by
  rintro _ ⟨⟩
  exact h

theorem withBytes {a n : Nat} {k : Bytes → Result} (h : ∀ bs, NextMeets (k bs) P) :
    NextMeets (s.withBytes a n k) P := by
  intro t ht
  obtain ⟨bs, -, hk⟩ := State.withBytes_eq_next ht
  exact h bs t hk

theorem withOptional {present : Bool} {k : Option Bytes → Result} (h : ∀ o, NextMeets (k o) P) :
    NextMeets (s.withOptional present k) P := by
  intro t ht
  rcases State.withOptional_eq_next ht with ⟨-, hk⟩ | ⟨-, bs, -, hk⟩
  · exact h none t hk
  · exact h (some bs) t hk

end NextMeets

namespace DecidedBy

variable {cs : List (Bool × ErrCode)} {failure : ErrCode → State} {code : ErrCode}

theorem of_failed (hf : firstFailed cs = some code) :
    DecidedBy cs failure P (.next (failure code)) := by
  rw [DecidedBy, hf]
  refine ⟨?_, nofun⟩
  rintro _ ⟨⟩
  rfl

theorem of_passed (hf : firstFailed cs = none) (h : NextMeets r P) : DecidedBy cs failure P r :=
  ⟨fun _ hc => by simp [hf] at hc, fun _ => h⟩

/-- With no check left the rest of the meaning decides. -/
theorem nil (h : NextMeets r P) : DecidedBy [] failure P r := of_passed rfl h

/-- A check that fails decides, and one that passes leaves it to the checks after it. -/
theorem check {p : Prop} [Decidable p] {c : Bool} (hc : p ↔ c = false)
    (h : DecidedBy cs failure P r) :
    DecidedBy ((c, code) :: cs) failure P (if p then .next (failure code) else r) := by
  rw [DecidedBy, firstFailed_cons]
  cases c with
  | false =>
    rw [if_pos (hc.mpr rfl)]
    refine ⟨?_, nofun⟩
    rintro _ ⟨⟩
    rfl
  | true =>
    have hp : ¬p := by simp [hc]
    rw [if_neg hp]
    exact h

/-- A meaning may make two checks with one code at once. -/
theorem of_and {a b : Bool} (h : DecidedBy ((a && b, code) :: cs) failure P r) :
    DecidedBy ((a, code) :: (b, code) :: cs) failure P r := by
  rwa [DecidedBy, firstFailed_and] at h

end DecidedBy

end

/-! ## The commands -/

section
variable (s : State)

/-- The single-block commands raise no error once their checks pass
(spec/41_cipher.md R160, R161). -/
theorem blockCommand_decidedBy (seeded : Bool) (out : Option Bytes → Bytes → Bytes)
    {P : State → Prop} (hP : ∀ t, t.err = s.err → P t) :
    DecidedBy ((Instr.aesEncBlock seeded).checks s) s.errored P (blockCommand seeded out s) := by
  unfold blockCommand
  cases hc : blockCheck s seeded with
  | some code => exact .of_failed (blockCheck_eq_firstFailed s seeded ▸ hc)
  | none =>
    exact .of_passed (blockCheck_eq_firstFailed s seeded ▸ hc)
      (.withBytes fun _ => .withOptional fun _ => .next (hP _ rfl))

/-- The chained commands raise no error once their checks pass
(spec/41_cipher.md R164, R165). -/
theorem chainCommand_decidedBy (zeroIv : Bool) (out : Bytes → Bytes → Bytes)
    {P : State → Prop} (hP : ∀ t, t.err = s.err → P t) :
    DecidedBy ((Instr.aesChainEnc zeroIv).checks s) s.errored P (chainCommand zeroIv out s) := by
  unfold chainCommand
  cases hc : chainCheck s zeroIv with
  | some code => exact .of_failed (chainCheck_eq_firstFailed s zeroIv ▸ hc)
  | none =>
    exact .of_passed (chainCheck_eq_firstFailed s zeroIv ▸ hc)
      (.withOptional fun _ => .withBytes fun _ => .next (hP _ rfl))

/-- The RSA commands raise CRYPTO on the data, or no error (spec/42_rsa.md R192, R193). -/
theorem rsaCommand_decidedBy (ex : Nat) {P : State → Prop} (hP : ∀ t, t.err = s.err → P t)
    (hcrypto : P (s.errored .crypto)) :
    DecidedBy (Instr.rsaPriv.checks s) s.errored P (rsaCommand ex s) := by
  refine .check (by simp) (.of_and (.check ?_ 
    (.of_and (.check (by simp [or_iff_not_imp_left]) (.nil ?_)))))
  · simp only [Config.rsaBytes, Bool.or_eq_true, decide_eq_true_eq, beq_iff_eq,
      Bool.and_eq_false_iff, decide_eq_false_iff_not]
    omega
  · refine .withBytes fun x => ?_
    split
    · exact .next hcrypto
    · exact .next (hP _ rfl)

/-- Once its nonce is drawn HS_CERT raises CRYPTO, or no error (spec/43_handshake.md R221). -/
theorem certWithNonce_nextMeets (p : Params) (nonce : Bytes) :
    NextMeets (certWithNonce p nonce (s.afterDraw 16)) (Instr.hsCert.EndsOnData s) := by
  unfold certWithNonce
  dsimp only
  split
  · exact .next (.inr ⟨.crypto, .head _, rfl⟩)
  · exact .next (.inl rfl)

/-- Once its response is read HS_RESPONSE raises FRAMING, CRYPTO or AUTH, or no error
(spec/43_handshake.md R235). -/
theorem acceptResponse_nextMeets (p : Params) (r : Bytes) :
    NextMeets (acceptResponse p r s) (Instr.hsResponse.EndsOnData s) := by
  have fails {code : ErrCode} (h : code ∈ Instr.hsResponse.dataErrors) :
      NextMeets (.next (s.hsFailed code)) (Instr.hsResponse.EndsOnData s) :=
    .next (.inr ⟨code, h, rfl⟩)
  unfold acceptResponse
  split
  · exact fails (by decide)
  split
  · exact fails (by decide)
  dsimp only
  split
  · exact fails (by decide)
  split
  · exact fails (by decide)
  · exact .next (.inl rfl)

/-- The checks of its row decide every command, and once they pass only its errors on the data
remain. -/
theorem exec_decidedBy (i : Instr) :
    DecidedBy (i.checks s) (i.failure s) (i.EndsOnData s) (exec i s) := by
  cases i with
  | nop | hashReset | hsAbort => exact .nil (.next (.inl rfl))
  | hashUpdate => exact .check (by simp) (.nil (.withBytes fun _ => .next (.inl rfl)))
  | hashFinal => exact .check (by simp) (.nil (.next (.inl rfl)))
  | hashExpand =>
    exact .check (by simp) (.check (by simp) (.nil (.withBytes fun _ => .next (.inl rfl))))
  | aesKeysched =>
    exact .check (by simp [and_assoc]) (.check (by simp)
      (.nil (.withBytes fun _ => .next (.inl rfl))))
  | aesEncBlock seeded | aesDecBlock seeded =>
    exact blockCommand_decidedBy s seeded _ fun _ => .inl
  | aesChainEnc zeroIv | aesChainDec zeroIv =>
    exact chainCommand_decidedBy s zeroIv _ fun _ => .inl
  | aesMac =>
    exact .check (by simp) (.check (by simp) (.of_and
      (.check (by simp [or_iff_not_imp_left]) (.nil (.withBytes fun _ => .next (.inl rfl))))))
  | rsaPriv | rsaPub =>
    exact rsaCommand_decidedBy s _ (fun _ => .inl) (.inr ⟨.crypto, .head _, rfl⟩)
  | kmLoad =>
    refine .check (by simp) (.check (by simp [imageBytes]) (.nil (.withBytes fun image => ?_)))
    split
    · exact .next (.inr ⟨.kmInvalid, .head _, rfl⟩)
    · exact .next (.inl rfl)
  | hsStart => exact .check (by simp) (.nil (.next (.inl rfl)))
  | hsCert =>
    exact .check (by simp) (.check (by simp) (.check (by simp) (.check (by simp)
      (.nil (certWithNonce_nextMeets s _ _)))))
  | hsResponse =>
    exact .check (by simp) (.check (by simp) (.check (by simp)
      (.nil (.withBytes fun _ => acceptResponse_nextMeets s _ _))))
  | hsConfirm => exact .check (by simp) (.check (by simp) (.nil (.next (.inl rfl))))
  | hsOpen => exact .check (by simp) (.check (by simp) (.nil (.next (.inl rfl))))

end

/-! ## The error codes -/

section
variable {i : Instr} {code : ErrCode}

theorem failure_errCode (i : Instr) (s : State) (code : ErrCode) :
    (i.failure s code).errCode = code := by
  unfold Instr.failure
  split <;> rfl

/-- No check decides the code of no error. -/
theorem ne_ok_of_firstFailed {s : State} (h : firstFailed (i.checks s) = some code) :
    code ≠ .ok := by
  obtain ⟨c, hc, rfl⟩ := mem_of_firstFailed_eq_some h
  revert c
  cases i <;> simp [Instr.checks]

theorem ne_ok_of_mem_dataErrors (h : code ∈ i.dataErrors) : code ≠ .ok := by
  rintro rfl
  revert h
  cases i <;> simp [Instr.dataErrors]

/-- A command that sets ERR on its data ends with one of its errors on the data, and with no effect
but that of the error. -/
theorem error_of_endsOnData {s t : State} (h : i.EndsOnData s t) (herr : s.err = false)
    (hte : t.err = true) : t.errCode ∈ i.dataErrors ∧
      t = { i.failure s t.errCode with draws := t.draws, randomInput := t.randomInput } := by
  rcases h with hkeep | ⟨code, hcode, ht⟩
  · simp [hkeep, herr] at hte
  · have htc : t.errCode = code := by rw [ht]; exact failure_errCode i s code
    rw [htc]
    exact ⟨hcode, ht⟩

end

end Sys2Proof.Machine

open Sys2Proof Sys2Proof.Machine

/-- Settles O31: the checks of its row decide every command. -/
theorem checksDecideInOrder : Obligations.ChecksDecideInOrder := by
  intro i s
  obtain ⟨hfailed, hpassed⟩ := exec_decidedBy s i
  refine ⟨hfailed, fun t hnone herr h hte => ?_⟩
  obtain ⟨hcode, -⟩ := error_of_endsOnData (hpassed hnone t h) herr hte
  exact hcode

/-- Settles O32: a command ends with an error in a check of its row or on its data. -/
theorem failedCommandHasNoOtherEffect : Obligations.FailedCommandHasNoOtherEffect := by
  intro i s t herr h hte
  obtain ⟨hfailed, hpassed⟩ := exec_decidedBy s i
  cases hc : firstFailed (i.checks s) with
  | some code =>
    cases h.symm.trans (hfailed code hc)
    rw [failure_errCode]
    exact ⟨ne_ok_of_firstFailed hc, rfl⟩
  | none =>
    obtain ⟨hcode, ht⟩ := error_of_endsOnData (hpassed hc t h) herr hte
    exact ⟨ne_ok_of_mem_dataErrors hcode, ht⟩
end

section
/-! SUPPORT. The faults of the Host's accesses (spec/60_exceptions.md R290), and its store to CMD
(R289). -/

namespace Sys2Proof.Machine

section
variable {s : State} {addr : HostAddr} {width : Nat}

/-! ## Which offset an access names -/

theorem HostAddr.offset_window {off : Nat} (p : Params) (h : off < 0x2000) :
    (HostAddr.window off).offset p = some off := if_pos h

theorem HostAddr.offset_window_outside {off : Nat} (p : Params) (h : 0x2000 ≤ off) :
    (HostAddr.window off).offset p = none := if_neg (Nat.not_lt.mpr h)

theorem HostAddr.offset_absolute {off : Nat} (p : Params) (h : off < 0x2000) :
    (HostAddr.absolute (p.base + off)).offset p = some off := by
  have hin : p.base ≤ p.base + off ∧ p.base + off < p.base + 0x2000 := by omega
  rw [HostAddr.offset, if_pos hin, Nat.add_sub_cancel_left]

theorem HostAddr.offset_absolute_outside {a : Nat} (p : Params)
    (h : a < p.base ∨ p.base + 0x2000 ≤ a) : (HostAddr.absolute a).offset p = none :=
  if_neg (by simp only [Config.windowSize]; omega)

/-! ## What decides an access -/

/-- Of the address an access depends on the offset alone. -/
theorem State.hostLoad_congr {addr' : HostAddr} (h : addr.offset s.params = addr'.offset s.params) :
    s.hostLoad width addr = s.hostLoad width addr' := by
  rw [State.hostLoad, h, State.hostLoad]

theorem State.hostStore_congr {addr' : HostAddr} (h : addr.offset s.params = addr'.offset s.params)
    (v : Word) : s.hostStore width addr v = s.hostStore width addr' v := by
  rw [State.hostStore, h, State.hostStore]

/-- An access outside the window is F_WINDOW. -/
theorem State.access_outside (h : addr.offset s.params = none) (v : Word) :
    s.hostLoad width addr = .fault .window ∧ s.hostStore width addr v = .fault .window := by
  rw [State.hostLoad, State.hostStore, h]
  exact ⟨rfl, rfl⟩

/-- An access inside the window that its region does not take is the region's fault. -/
theorem State.access_of_accessFault {off : Nat} {f : Fault} (h : off < 0x2000)
    (hf : accessFault off width = some f) (v : Word) :
    s.hostLoad width (.window off) = .fault f ∧ s.hostStore width (.window off) v = .fault f := by
  simp only [State.hostLoad, State.hostStore, HostAddr.offset_window s.params h, hf, and_self]

theorem accessFault_register {off : Nat} (h : off < 0x1000) (hbad : ¬(width = 4 ∧ off % 4 = 0)) :
    accessFault off width = some .width := by
  rw [accessFault, if_pos h, if_neg hbad]

theorem accessFault_bufAcc {off : Nat} (h : 0x1000 ≤ off)
    (hbad : ¬((width = 1 ∨ width = 2 ∨ width = 4) ∧ off % width = 0)) :
    accessFault off width = some .bufAcc := by
  rw [accessFault, if_neg (Nat.not_lt.mpr h), if_neg hbad]

/-! ## Aligned accesses to BUF -/

theorem State.storeBuf_of_busy {k : Nat} (hbusy : s.busy = true) (v : Word) :
    s.storeBuf k width v = .fault .busyStore := if_pos hbusy

/-- With no command in flight a load of a byte that nothing has written is F_UNINIT
(spec/20_memory.md R72). -/
theorem State.loadBuf_of_unwritten {k : Nat} (hbusy : s.busy = false)
    (h : s.buf.Unwritten k width) : s.loadBuf k width = .fault .uninit := by
  rw [State.loadBuf, if_neg (by simp [hbusy]),
    State.withBytes_of_unread _ ((Memory.readBytes_eq_none ..).mpr h)]

/-! ## CMD -/

/-- While a command is in flight a store to CMD sets DROP (spec/10_state.md R40). -/
theorem State.hostStore_cmd_of_busy (hbusy : s.busy = true) (v : Word) :
    s.hostStore 4 (.window 0x00C) v = .next { s with drop := true } := by
  have hwrite : s.writeRegister 0x00C v = { s with drop := true } := if_pos hbusy
  rw [s.hostStore_register (by decide) (by decide), hwrite]

end

end Sys2Proof.Machine

open Sys2Proof Sys2Proof.Machine

/-- Settles O17: the offset decides the region, and the region's own rule the access. -/
theorem hostFaults : Obligations.HostFaults := by
  intro s width off v
  refine ⟨fun hreg hbad => ?_, fun hlo hhi hbad => ?_, fun hlo hhi hw hal => ?_, fun hout => ?_,
    fun a hout => ?_, fun hin => ?_⟩
  · exact State.access_of_accessFault (by omega) (accessFault_register hreg hbad) v
  · exact State.access_of_accessFault hhi (accessFault_bufAcc hlo hbad) v
  · obtain ⟨k, rfl⟩ := Nat.exists_eq_add_of_le hlo
    have hk : k % width = 0 := by rcases hw with rfl | rfl | rfl <;> omega
    have hb : k < 4096 := by omega
    rw [Nat.add_sub_cancel_left, State.hostStore_buf hw hk hb, State.hostLoad_buf hw hk hb]
    exact ⟨fun hbusy => State.storeBuf_of_busy hbusy v, State.loadBuf_of_unwritten⟩
  · exact State.access_outside (HostAddr.offset_window_outside s.params hout) v
  · exact State.access_outside (HostAddr.offset_absolute_outside s.params hout) v
  · have hoff := (HostAddr.offset_absolute s.params hin).trans
      (HostAddr.offset_window s.params hin).symm
    exact ⟨State.hostLoad_congr hoff, State.hostStore_congr hoff v⟩

/-- Settles O10: BUSY decides the store to CMD. -/
theorem commandWriteAcceptedOrDropped : Obligations.CommandWriteAcceptedOrDropped := fun _ v =>
  ⟨fun hbusy => State.hostStore_cmd_of_busy hbusy v,
    fun hbusy => State.hostStore_cmd_of_not_busy hbusy v⟩
end

section
/-! SUPPORT. What the Host writes to ARG0 to ARG4 and TSTATUS reaches no command in flight
(spec/70_reset_and_hazards.md R327): replacing them before a command, or after it, gives the same
outcome. -/

namespace Sys2Proof.Machine

/-- The state with other values in ARG0 to ARG4 and TSTATUS, as host stores leave it. -/
def State.withArgRegisters (a : Args) (v : Word) (s : State) : State :=
  { s with args := a, tstatus := v }

variable (a : Args) (v : Word) (s : State)

theorem blockCommand_withArgRegisters (seeded : Bool) (out : Option Bytes → Bytes → Bytes) :
    blockCommand seeded out (s.withArgRegisters a v) =
      mapNext (State.withArgRegisters a v) (blockCommand seeded out s) := by
  have hcheck : blockCheck (s.withArgRegisters a v) seeded = blockCheck s seeded := rfl
  rw [blockCommand, hcheck, blockCommand]
  cases blockCheck s seeded with
  | some code => rfl
  | none =>
    exact State.withBytes_eq_mapNext rfl fun _ => State.withOptional_eq_mapNext rfl rfl fun _ => rfl

theorem chainCommand_withArgRegisters (zeroIv : Bool) (out : Bytes → Bytes → Bytes) :
    chainCommand zeroIv out (s.withArgRegisters a v) =
      mapNext (State.withArgRegisters a v) (chainCommand zeroIv out s) := by
  have hcheck : chainCheck (s.withArgRegisters a v) zeroIv = chainCheck s zeroIv := rfl
  rw [chainCommand, hcheck, chainCommand]
  cases chainCheck s zeroIv with
  | some code => rfl
  | none =>
    exact State.withOptional_eq_mapNext rfl rfl fun _ => State.withBytes_eq_mapNext rfl fun _ => rfl

theorem rsaCommand_withArgRegisters (ex : Nat) :
    rsaCommand ex (s.withArgRegisters a v) =
      mapNext (State.withArgRegisters a v) (rsaCommand ex s) := by
  have hkm : (s.withArgRegisters a v).km = s.km := rfl
  have harg : (s.withArgRegisters a v).arg3 = s.arg3 := rfl
  refine ite_eq_mapNext rfl (ite_eq_mapNext rfl (ite_eq_mapNext rfl
    (State.withBytes_eq_mapNext rfl fun x => ?_)))
  rw [hkm, harg]
  cases rsa x ex s.km.n s.arg3 <;> rfl

theorem certWithNonce_withArgRegisters (p : Params) (nonce : Bytes) :
    certWithNonce p nonce (s.withArgRegisters a v) =
      mapNext (State.withArgRegisters a v) (certWithNonce p nonce s) := by
  have hkm : (s.withArgRegisters a v).km = s.km := rfl
  simp only [certWithNonce, hkm]
  cases sigBlock p s.km (slice (certBody s.km.cert nonce) 2 654) <;> rfl

theorem acceptResponse_withArgRegisters (p : Params) (r : Bytes) :
    acceptResponse p r (s.withArgRegisters a v) =
      mapNext (State.withArgRegisters a v) (acceptResponse p r s) := by
  have hkm : (s.withArgRegisters a v).km = s.km := rfl
  refine ite_eq_mapNext rfl ?_
  rw [hkm]
  cases rsa (slice r 4 132) s.km.d s.km.n 128 with
  | none => rfl
  | some x =>
    dsimp only
    cases parsePayload (decryptPayload p (unwrap x) r) with
    | none => rfl
    | some fields => exact ite_eq_mapNext rfl rfl

/-- No command reads ARG0 to ARG4 or TSTATUS: its arguments and the transport status are the latched
ones (spec/10_state.md R35). -/
theorem exec_withArgRegisters (i : Instr) :
    exec i (s.withArgRegisters a v) = mapNext (State.withArgRegisters a v) (exec i s) := by
  cases i with
  | nop | hashReset | hsAbort => rfl
  | hashUpdate => exact ite_eq_mapNext rfl (State.withBytes_eq_mapNext rfl fun _ => rfl)
  | hashFinal | hsStart => exact ite_eq_mapNext rfl rfl
  | hashExpand | aesKeysched =>
    exact ite_eq_mapNext rfl (ite_eq_mapNext rfl (State.withBytes_eq_mapNext rfl fun _ => rfl))
  | aesEncBlock seeded | aesDecBlock seeded => exact blockCommand_withArgRegisters ..
  | aesChainEnc zeroIv | aesChainDec zeroIv => exact chainCommand_withArgRegisters ..
  | aesMac =>
    exact ite_eq_mapNext rfl (ite_eq_mapNext rfl (ite_eq_mapNext rfl
      (State.withBytes_eq_mapNext rfl fun _ => rfl)))
  | rsaPriv | rsaPub => exact rsaCommand_withArgRegisters ..
  | kmLoad =>
    refine ite_eq_mapNext rfl (ite_eq_mapNext rfl (State.withBytes_eq_mapNext rfl fun image => ?_))
    cases parseImage image <;> rfl
  | hsCert =>
    exact ite_eq_mapNext rfl (ite_eq_mapNext rfl (ite_eq_mapNext rfl (ite_eq_mapNext rfl
      (certWithNonce_withArgRegisters a v (s.afterDraw 16) s.params (s.drawn 16)))))
  | hsResponse =>
    exact ite_eq_mapNext rfl (ite_eq_mapNext rfl (ite_eq_mapNext rfl
      (State.withBytes_eq_mapNext rfl fun r => acceptResponse_withArgRegisters a v s s.params r)))
  | hsConfirm | hsOpen => exact ite_eq_mapNext rfl (ite_eq_mapNext rfl rfl)

end Sys2Proof.Machine

open Sys2Proof Sys2Proof.Machine

/-- Settles O26: `State.withArgRegisters` is the Host's stores, and an accepted CMD store latches
what they left. -/
theorem commandReadsOnlyLatchedValues : Obligations.CommandReadsOnlyLatchedValues :=
  fun i s a v w => ⟨exec_withArgRegisters a v s i, fun hbusy =>
    State.hostStore_cmd_of_not_busy (s := s.withArgRegisters a v) hbusy w⟩
end

section
/-! SUPPORT. The end of a `wait` (spec/70_reset_and_hazards.md R324): what its poll answers, and
that the Engine's step completes when every BUF byte holds a value. -/

namespace Sys2Proof.Machine

section
variable {s : State} {rest : List HostOp}

/-! ## The poll -/

/-- With a command in flight a poll of `wait` reads STATUS and leaves the `wait` to be made again
(spec/30_encoding.md R99). -/
theorem State.hostAccess_wait_of_busy (hbusy : s.busy = true) :
    s.hostAccess .wait = .next { s with hostRead := s.status, script := .wait :: s.script } :=
  if_pos (s.status_busy.trans hbusy)

/-- With no command in flight the poll passes the `wait`. -/
theorem State.hostAccess_wait_of_not_busy (hbusy : s.busy = false) :
    s.hostAccess .wait = .next { s with hostRead := s.status } :=
  if_neg (Bool.eq_false_iff.mp (s.status_busy.trans hbusy))

theorem step_wait_of_busy (hbusy : s.busy = true) (hs : s.script = .wait :: rest)
    (hturn : s.turns.head? = some .host) :
    step s =
      .next { s with turns := s.turns.tail, hostRead := s.status, script := .wait :: rest } := by
  obtain ⟨-, -, haccess⟩ := stepMakesTheNextHostAccess s
  exact (haccess _ rest hbusy hs hturn).trans (State.hostAccess_wait_of_busy hbusy)

theorem step_wait_of_not_busy (hbusy : s.busy = false) (hs : s.script = .wait :: rest) :
    step s = .next { s with script := rest, hostRead := s.status } := by
  obtain ⟨haccess, -, -⟩ := stepMakesTheNextHostAccess s
  exact (haccess _ rest hbusy hs).trans (State.hostAccess_wait_of_not_busy hbusy)

/-! ## The command -/

/-- When every BUF byte holds a value no command stops (spec/20_memory.md R72). -/
theorem exec_completes (hbuf : ∀ a, a < 4096 → s.buf.read a ≠ none) (i : Instr) :
    ∃ t, exec i s = .next t := by
  obtain ⟨hrefused, -, hfault, -⟩ := commandsStopOnlyOnUnwrittenBytes i s
  cases he : exec i s with
  | next t => exact ⟨t, rfl⟩
  | fault f =>
    obtain ⟨-, -, r, -, j, -, hlt, hread⟩ := hfault f he
    exact absurd hread (hbuf _ hlt)
  | refused r => exact absurd he (hrefused r)

/-- The Engine's step ends the command, legal or not, and makes no host access
(spec/10_state.md R37, R40). -/
theorem step_engine_completes (hbusy : s.busy = true) (hturn : s.turns.head? ≠ some .host)
    (hbuf : ∀ a, a < 4096 → s.buf.read a ≠ none) :
    ∃ t, step s = .next t ∧ t.busy = false ∧ t.script = s.script := by
  obtain ⟨hlegal, hillegal⟩ := stepRunsTheDecodedCommand s hbusy (.inr hturn)
  cases hd : decode s.curCmd with
  | ok i =>
    obtain ⟨t, ht⟩ := exec_completes (s := { s with turns := s.turns.tail }) hbuf i
    obtain ⟨hidle, -, -, -, -, -, -, -, hscript, -⟩ := commandKeepsTheHostsRegisters i _ t ht
    exact ⟨t, (hlegal i hd).trans ht, hidle, hscript⟩
  | error e => exact ⟨_, hillegal ⟨e, hd⟩, rfl, rfl⟩

/-! ## The `wait` -/

/-- A run of `k` steps from `s` ends with the poll that passes the `wait`. -/
def WaitPasses (s : State) (rest : List HostOp) (k : Nat) : Prop :=
  ∃ t : State, Host.Core.run core k s = .next t ∧
    t.busy = false ∧ t.script = rest ∧ t.hostRead = t.status ∧ t.hostRead.getLsbD 0 = false

theorem waitPasses_of_not_busy (hbusy : s.busy = false) (hs : s.script = .wait :: rest) :
    WaitPasses s rest 1 :=
  ⟨_, (run_one core s).trans (step_wait_of_not_busy hbusy hs), hbusy, rfl, rfl,
    s.status_busy.trans hbusy⟩

theorem WaitPasses.of_step {t : State} {k : Nat} (h : step s = .next t) (ht : WaitPasses t rest k) :
    WaitPasses s rest (k + 1) := by
  obtain ⟨u, hrun, hu⟩ := ht
  exact ⟨u, (run_succ_of_step core h k).trans hrun, hu⟩

/-- When the Engine moves, the command ends and the next poll passes. -/
theorem waitPasses_of_engine (hbusy : s.busy = true) (hs : s.script = .wait :: rest)
    (hbuf : ∀ a, a < 4096 → s.buf.read a ≠ none) (hturn : s.turns.head? ≠ some .host) :
    WaitPasses s rest 2 := by
  obtain ⟨t, hstep, hidle, hscript⟩ := step_engine_completes hbusy hturn hbuf
  exact .of_step hstep (waitPasses_of_not_busy hidle (hscript.trans hs))

/-- Each of the Host's turns uses up an entry of the choice (log 2); then the Engine moves. -/
theorem exists_waitPasses (hbusy : s.busy = true) (hs : s.script = .wait :: rest)
    (hbuf : ∀ a, a < 4096 → s.buf.read a ≠ none) :
    ∃ k, k ≤ s.turns.length + 2 ∧ WaitPasses s rest k := by
  induction hturns : s.turns generalizing s with
  | nil => exact ⟨2, Nat.le_refl 2, waitPasses_of_engine hbusy hs hbuf (by simp [hturns])⟩
  | cons agent turns ih =>
    cases agent with
    | engine =>
      exact ⟨2, Nat.le_add_left 2 _, waitPasses_of_engine hbusy hs hbuf (by simp [hturns])⟩
    | host =>
      have hpoll := step_wait_of_busy hbusy hs (by simp [hturns])
      rw [hturns] at hpoll
      obtain ⟨k, hk, hpass⟩ := ih
        (s := { s with turns := turns, hostRead := s.status, script := .wait :: rest })
        hbusy rfl hbuf rfl
      exact ⟨k + 1, by rw [List.length_cons]; omega, .of_step hpoll hpass⟩

end

end Sys2Proof.Machine

open Sys2Proof Sys2Proof.Machine

/-- Settles O8: by induction on the choice of who moves. -/
theorem waitEnds : Obligations.WaitEnds := by
  intro s rest hbusy hs hbuf
  obtain ⟨k, hk, t, ht⟩ := exists_waitPasses hbusy hs hbuf
  exact ⟨k, t, hk, ht⟩
end
